-- ==== Sys2Proof/Word.lean ====
section
/-!
DEFINITION. The words the engine handles (spec 00_scope R6, R8; 30_encoding R80).
-/

namespace Sys2Proof

/-- `WORD` = 32 bits, two's complement: a RawReading, RESULT, ARG, a clock value (00_scope R6). -/
abbrev Word := BitVec 32

/-- One `ShiftInByte` answer (00_scope R10). -/
abbrev Byte := BitVec 8

/-- One command: OP in bits 39 to 32, ARG in bits 31 to 0 (30_encoding R80). -/
abbrev CommandWord := BitVec 40

/-- The level of a pin (00_scope R10). -/
inductive Level where
  | low
  | high
  deriving DecidableEq, Repr, Inhabited

end Sys2Proof
end

