-- ==== Sys2Proof/Config.lean ====
section
/-!
DEFINITION. What an implementation fixes (00_scope R6) and the free values of the model.

The OPEN parameters of R6 form the structure `Params`; every meaning takes them from the state, so
that a statement about every state is a statement about every choice of them. The decided ones are
constants. `TIMEOUT_POLICY` is decided as PROPAGATE (R6, 42_composite R184): no other policy exists
in the model, so it has no constant here.
-/

namespace Sys2Proof

/-- The identifier of a pin, opaque to the engine (00_scope R6, 20_memory R58). -/
abbrev PinId := Nat

/-- The OPEN parameters of 00_scope R6. Plain data: `Params.wellFormed` is the constraint of R7. -/
structure Params where
  /-- `MIN_SIZE`, the least filter capacity. -/
  minSize : Nat
  /-- `MAX_SIZE`, the greatest filter capacity and the physical length of BUF and ORD. -/
  maxSize : Nat
  /-- `CAPACITY_INIT`, the capacity requested at construction, a signed word. -/
  capacityInit : Word
  /-- `GAIN_CODE_INIT`, the gain code given at construction, an unsigned word. -/
  gainCodeInit : Word
  /-- `DATA_PIN`. -/
  dataPin : PinId
  /-- `CLOCK_PIN`. -/
  clockPin : PinId
  deriving DecidableEq, Repr

/-- The parameters `State.reset` is constructed with: the test configuration of 95_test_vectors.
DESIGN CHOICE (log entry 1), unsafe: the spec leaves all six OPEN. No statement rests on them: they
speak of `State.construct` at every parameters. -/
def Params.test : Params where
  minSize := 1
  maxSize := 16
  capacityInit := 5
  gainCodeInit := 128
  dataPin := 0
  clockPin := 1

/-- The identity string of 00_scope R1. -/
def Config.identity : String := "litter-box-core-v7"

/-- `READ_DEFAULT_TIMEOUT`, the timeout of `READ` written without operand (00_scope R6). -/
def Config.readDefaultTimeout : Word := 1000

/-- `READ_MEDIAN_DEFAULT_TIMES`, the count of `READ_MEDIAN` written without operand (00_scope R6). -/
def Config.readMedianDefaultTimes : Word := 10

/-- `READ_MEDIAN_TIMEOUT`, the timeout of each reading inside READ_MEDIAN (00_scope R6, 42_composite R183). -/
def Config.readMedianTimeout : Word := 1000

/-- FREE VALUE (log entry 5): the `n`-th answer of the host, where it is a `Now()` answer. Any value
(20_memory R61, 93_implementation_defined U3); inside a ready wait under the host's duty, `lateClock` of it. -/
opaque Config.freeClock : Nat → Word

/-- FREE VALUE (log entry 11): for a ready wait that starts after the `n`-th answer, how many of its
iterations past the first the host may answer as it likes before its fairness duty of 20_memory R61 takes
hold. Any natural number: the duty says "eventually" and gives no bound. -/
opaque Config.freePatience : Nat → Nat

/-- FREE VALUE (log entry 5): the `n`-th answer of the host, where it is a `PinRead(DATA)` answer
(93_implementation_defined U4). -/
opaque Config.freeLevel : Nat → Level

/-- FREE VALUE (log entry 5): the `n`-th answer of the host, where it is a `ShiftInByte()` answer
(20_memory R60, 93_implementation_defined U5). -/
opaque Config.freeByte : Nat → Byte

end Sys2Proof
end

