-- ==== Sys2Proof/Syntax.lean ====
section
/-!
DEFINITION. The commands (30_encoding R82), one constructor per row of spec/opcode_table.json. An
operand is the whole 32-bit ARG; a command whose ARG is ignored (R85) has none.
-/

namespace Sys2Proof

/-- The commands of 30_encoding R82. -/
inductive Instr where
  /-- BEGIN, OP 0x01 (40_reader R104). -/
  | begin
  /-- SET_GAIN, OP 0x02, `code = u32(ARG)` (40_reader R105). -/
  | setGain (code : Word)
  /-- IS_READY, OP 0x03 (40_reader R106). -/
  | isReady
  /-- READ, OP 0x04, `timeout = u32(ARG)` in milliseconds (40_reader R107). -/
  | read (timeout : Word)
  /-- POWER_DOWN, OP 0x05 (40_reader R115). -/
  | powerDown
  /-- POWER_UP, OP 0x06 (40_reader R116). -/
  | powerUp
  /-- FILTER_CONFIGURE, OP 0x10, `req = s32(ARG)` (41_filter R142). -/
  | filterConfigure (req : Word)
  /-- FILTER_CLEAR, OP 0x11 (41_filter R144). -/
  | filterClear
  /-- FILTER_ADD, OP 0x12, `v = s32(ARG)` (41_filter R145). -/
  | filterAdd (value : Word)
  /-- FILTER_GET_MEDIAN, OP 0x13 (41_filter R148). -/
  | filterGetMedian
  /-- READ_MEDIAN, OP 0x20, `times = s32(ARG)` (42_composite R180). -/
  | readMedian (times : Word)
  deriving DecidableEq, Repr

/-- How the assembler writes an operand (30_encoding R87): a decimal integer or a hexadecimal
pattern of up to 8 digits. -/
inductive Written where
  | decimal (value : Int)
  | hex (digits : Nat) (value : Nat)
  deriving DecidableEq, Repr

/-- How a command reads its operand (30_encoding R82). -/
inductive OperandKind where
  /-- The command has no operand. -/
  | none
  /-- `u32(ARG)`. -/
  | unsigned
  /-- `s32(ARG)`. -/
  | signed
  deriving DecidableEq, Repr

/-- The operand kind of each command (30_encoding R82). -/
def Instr.operandKind : Instr → OperandKind
  | .begin => .none
  | .setGain _ => .unsigned
  | .isReady => .none
  | .read _ => .unsigned
  | .powerDown => .none
  | .powerUp => .none
  | .filterConfigure _ => .signed
  | .filterClear => .none
  | .filterAdd _ => .signed
  | .filterGetMedian => .none
  | .readMedian _ => .signed

end Sys2Proof
end

