-- ==== Sys2Proof/WellFormed.lean ====
section
/-!
DEFINITION. The checks of the spec on configurations (00_scope R6, R7), on written operands
(30_encoding R87) and on commands (30_encoding R82 to R85).
-/

namespace Sys2Proof

/-- The constraints of 00_scope R6 and R7: `1 <= MIN_SIZE <= MAX_SIZE <= 2^31 - 1` and
`DATA_PIN != CLOCK_PIN`. A configuration that breaks one is refused before any step. -/
def Params.wellFormed (p : Params) : Bool :=
  decide (1 ≤ p.minSize) && decide (p.minSize ≤ p.maxSize) && decide (p.maxSize ≤ 2147483647) &&
    decide (p.dataPin ≠ p.clockPin)

/-- Every command is well formed at every operand: R82 reads the whole ARG, R83 and R85 reserve no
bit of it, and the operand has the width of ARG. -/
def Instr.wellFormed : Instr → Bool
  | .begin => true
  | .setGain _ => true
  | .isReady => true
  | .read _ => true
  | .powerDown => true
  | .powerUp => true
  | .filterConfigure _ => true
  | .filterClear => true
  | .filterAdd _ => true
  | .filterGetMedian => true
  | .readMedian _ => true

/-- "An operand must fit its decoding" (30_encoding R87): an unsigned operand `0..4294967295`, a
signed one `-2147483648..2147483647`, a hexadecimal pattern of 1 to 8 digits in either case; a
command without operand takes none. -/
def Written.wellFormed (kind : OperandKind) : Written → Bool
  | .decimal v =>
    match kind with
    | .none => false
    | .unsigned => decide (0 ≤ v) && decide (v ≤ 4294967295)
    | .signed => decide (-2147483648 ≤ v) && decide (v ≤ 2147483647)
  | .hex digits v =>
    match kind with
    | .none => false
    | .unsigned => decide (1 ≤ digits) && decide (digits ≤ 8) && decide (v < 16 ^ digits)
    | .signed => decide (1 ≤ digits) && decide (digits ≤ 8) && decide (v < 16 ^ digits)

end Sys2Proof
end

