-- ==== Sys2Proof/Decode.lean ====
section
/-!
DEFINITION. The decoder and encoder of the 40-bit command word (30_encoding R80, R82, R84, R85).
-/

namespace Sys2Proof

/-- Why a word is no command (30_encoding R84). -/
inductive DecodeError where
  /-- OP is not in the opcode map of R82. -/
  | illegalOpcode (op : BitVec 8)
  deriving DecidableEq, Repr

/-- The field OP, bits 39 to 32 (30_encoding R80). -/
def opField (w : CommandWord) : BitVec 8 :=
  w.extractLsb' 32 8

/-- The field ARG, bits 31 to 0 (30_encoding R80). -/
def argField (w : CommandWord) : Word :=
  w.extractLsb' 0 32

/-- The opcode map of 30_encoding R82, read from the two fields; every OP that R82 does not list is
illegal (R84), and ARG is ignored where R85 says so. -/
def decodeFields (op : BitVec 8) (arg : Word) : Except DecodeError Instr :=
  match op with
  | 0x01#8 => .ok .begin
  | 0x02#8 => .ok (.setGain arg)
  | 0x03#8 => .ok .isReady
  | 0x04#8 => .ok (.read arg)
  | 0x05#8 => .ok .powerDown
  | 0x06#8 => .ok .powerUp
  | 0x10#8 => .ok (.filterConfigure arg)
  | 0x11#8 => .ok .filterClear
  | 0x12#8 => .ok (.filterAdd arg)
  | 0x13#8 => .ok .filterGetMedian
  | 0x20#8 => .ok (.readMedian arg)
  | other => .error (.illegalOpcode other)

/-- The command a word stands for. -/
def decode (w : CommandWord) : Except DecodeError Instr :=
  decodeFields (opField w) (argField w)

/-- The OP of each command (30_encoding R82). -/
def Instr.opcode : Instr → BitVec 8
  | .begin => 0x01
  | .setGain _ => 0x02
  | .isReady => 0x03
  | .read _ => 0x04
  | .powerDown => 0x05
  | .powerUp => 0x06
  | .filterConfigure _ => 0x10
  | .filterClear => 0x11
  | .filterAdd _ => 0x12
  | .filterGetMedian => 0x13
  | .readMedian _ => 0x20

/-- The ARG of each command; "a command without operand has ARG = 0" (30_encoding R87). -/
def Instr.operand : Instr → Word
  | .begin => 0
  | .setGain code => code
  | .isReady => 0
  | .read timeout => timeout
  | .powerDown => 0
  | .powerUp => 0
  | .filterConfigure req => req
  | .filterClear => 0
  | .filterAdd value => value
  | .filterGetMedian => 0
  | .readMedian times => times

/-- The word of a command: `OP << 32 | ARG` (30_encoding R87). -/
def encode (i : Instr) : CommandWord :=
  i.opcode ++ i.operand

/-- The decoder on a word numbered as spec/opcode_table.json numbers its bits: a row is one 40-bit
word, bit 0 its least significant bit; bits at and above `nbits` are 0. -/
def decodeTableWord (nbits w : Nat) : Option Instr :=
  match decode (BitVec.ofNat 40 (w % 2 ^ nbits)) with
  | .ok i => some i
  | .error _ => none

end Sys2Proof
end

