-- ==== Sys2Proof/Machine/Operands.lean ====
section
/-!
DEFINITION. The operand forms and the arithmetic of the engine, as functions of words alone:
readings of ARG (00_scope R8), the gain map (40_reader R101), the capacity clamp (41_filter R141),
elapsed time (40_reader R109), assembly of a reading (40_reader R112) and the even-count average
(41_filter R152).
-/

namespace Sys2Proof.Machine

/-- `u32(v)` (00_scope R8). -/
def u32 (v : Word) : Nat :=
  v.toNat

/-- `s32(v)` (00_scope R8). -/
def s32 (v : Word) : Int :=
  v.toInt

/-- `gain_pulses(code)` (40_reader R101): A128 sends 1 pulse, A64 3, B32 2, any other code 1. The
whole word is compared (30_encoding R83). -/
def gainPulses (code : Word) : BitVec 2 :=
  if u32 code = 128 then 1
  else if u32 code = 64 then 3
  else if u32 code = 32 then 2
  else 1

/-- `clamp(req)` (41_filter R141): a signed comparison of the whole word. -/
def clamp (p : Params) (req : Word) : Nat :=
  if s32 req < p.minSize then p.minSize
  else if s32 req > p.maxSize then p.maxSize
  else (s32 req).toNat

/-- Elapsed milliseconds, `(t - start) mod 2^32` (40_reader R109, 20_memory R61). -/
def elapsed (start t : Word) : Word :=
  t - start

/-- The deadline check of 40_reader R109: the elapsed time is at or past the timeout (written with `<` so that
a timeout of 0 fires on a free clock value too when the kernel evaluates it). -/
def deadlineReached (start timeout t : Word) : Bool :=
  if u32 (elapsed start t) < u32 timeout then false else true

/-- A clock value at or past the deadline, any one of them as `v` varies: elapsed time
`timeout + v mod (2^32 - timeout)`. It is what the host owes in the end (20_memory R61, R63). -/
def lateClock (start timeout v : Word) : Word :=
  start + timeout + BitVec.ofNat 32 (u32 v % (2 ^ 32 - u32 timeout))

/-- The upper byte of a widened reading (40_reader R112): all ones if bit 7 of `b2` is set. -/
def filler (b2 : Byte) : Byte :=
  if b2.getLsbD 7 then 0xFF else 0x00

/-- `assemble(b2, b1, b0)` (40_reader R112). -/
def assemble (b2 b1 b0 : Byte) : Word :=
  filler b2 ++ b2 ++ b1 ++ b0

/-- The average of the two central values (41_filter R152): the exact sum, divided by 2 with
truncation toward zero. -/
def average (a b : Word) : Word :=
  BitVec.ofInt 32 ((s32 a + s32 b).tdiv 2)

/-- "Out of order" (41_filter R153): a strict signed comparison. -/
def outOfOrder (a b : Word) : Bool :=
  decide (s32 a > s32 b)

end Sys2Proof.Machine
end

