-- ==== Sys2Proof/Machine/State.lean ====
section
/-!
DEFINITION. The engine's state (10_state R20 to R33), its construction (70_reset_and_hazards R230)
and the ways a step can stop (60_exceptions R218).
-/

namespace Sys2Proof.Machine

/-- STATUS (60_exceptions R200). -/
inductive Status where
  /-- The command completed. -/
  | ok
  /-- The ready wait reached its deadline (R201). -/
  | timedOut
  /-- A median was requested with no sample (R202). -/
  | emptyFilter
  /-- OP is not in the opcode map (R204). -/
  | illegalCommand
  deriving DecidableEq, Repr

/-- The numeric code of a status (60_exceptions R200). -/
def Status.code : Status → BitVec 2
  | .ok => 0
  | .timedOut => 1
  | .emptyFilter => 2
  | .illegalCommand => 3

/-- What ends a command with an error status (00_scope R11). -/
inductive Raise where
  | timedOut
  | emptyFilter
  | illegalCommand
  deriving DecidableEq, Repr

/-- The status a raise finishes with (00_scope R11). -/
def Raise.status : Raise → Status
  | .timedOut => .timedOut
  | .emptyFilter => .emptyFilter
  | .illegalCommand => .illegalCommand

/-- The mode of a pin (00_scope R10). -/
inductive PinMode where
  | input
  | output
  deriving DecidableEq, Repr

/-- One entry of the event history (20_memory R59): a host primitive call of 00_scope R10 with its
argument and answer, or a command's completion. -/
inductive Event where
  /-- `Now -> t`. -/
  | now (t : Word)
  /-- `PinRead(pin) -> level`. -/
  | pinRead (pin : PinId) (level : Level)
  /-- `PinWrite(pin, level)`. -/
  | pinWrite (pin : PinId) (level : Level)
  /-- `PinMode(pin, mode)`. -/
  | pinMode (pin : PinId) (mode : PinMode)
  /-- `ShiftInByte -> byte`, called with the data and the clock pin, MSB first (20_memory R60). -/
  | shiftInByte (data clock : PinId) (answer : Byte)
  /-- `Yield`. -/
  | yield
  /-- `Command(word) -> (status, result)`, at the command's completion. -/
  | command (word : CommandWord) (status : Status) (result : Word)
  deriving DecidableEq, Repr

/-- The command a ready wait belongs to. -/
inductive WaitTask where
  /-- A READ with its timeout (40_reader R107). -/
  | read (timeout : Word)
  /-- A READ_MEDIAN (42_composite R180): how many readings follow the one that waits. -/
  | median (left : Nat)
  deriving DecidableEq, Repr

/-- A ready wait suspended at its `Yield()` (40_reader R108), the one suspension point of the engine
(42_composite R183): the clock value the wait started at, and the command it belongs to; and the model's
own `patience` (log entry 11), the number of iterations from the next one on in which the host may still
answer any clock value, after which its duty of 20_memory R61 takes hold. -/
structure Wait where
  start : Word
  task : WaitTask
  patience : Nat
  deriving DecidableEq, Repr

/-- The state. S1 to S10 are the elements of 10_state R21; the fields after them are what the spec
makes an argument of the step (parameters, commands, answers: 00_scope R6, R12) or part of the
observation (20_memory R59). -/
structure State where
  /-- The parameters of 00_scope R6; no step writes them. -/
  params : Params
  /-- S1 GAIN_PULSES. -/
  gainPulses : BitVec 2
  /-- S2 CAPACITY. -/
  capacity : Nat
  /-- S3 COUNT. -/
  count : Nat
  /-- S4 WRITE_INDEX. -/
  writeIndex : Nat
  /-- S5 SORTED, the one flag (R25). -/
  sorted : Bool
  /-- S6 BUF, `MAX_SIZE` entries. -/
  buf : List Word
  /-- S7 ORD, `MAX_SIZE` entries. -/
  ord : List Nat
  /-- S8 STATUS. -/
  status : Status
  /-- S9 RESULT. -/
  result : Word
  /-- S10 SORT_SWAPS, observation only (R31). -/
  sortSwaps : Nat
  /-- The host's command list (10_state R24). -/
  program : List CommandWord
  /-- The command position `cp`, the index of the next command (10_state R24). -/
  cp : Nat
  /-- The ready wait in progress, if a READ or READ_MEDIAN is suspended at its `Yield()`. -/
  wait : Option Wait
  /-- The event history (20_memory R59), oldest event first. -/
  history : List Event
  /-- The model's own: the host's next answers to `Now()`; past its end they are free. -/
  clockIn : List Word
  /-- The model's own: the host's next answers to `PinRead(DATA)`; past its end they are free. -/
  levelIn : List Level
  /-- The model's own: the host's next answers to `ShiftInByte()`; past its end they are free. -/
  byteIn : List Byte
  /-- The model's own: how many answers the host has given, the index of the next free value. -/
  drawn : Nat
  deriving DecidableEq, Repr

/-- `construct()` (70_reset_and_hazards R230, R231) with the parameters `p`: no event, nothing
issued yet. BUF and the entries of ORD at and above CAPACITY are unspecified there; the values here
are a DESIGN CHOICE (log entry 2). -/
def State.construct (p : Params) : State where
  params := p
  gainPulses := Machine.gainPulses p.gainCodeInit
  capacity := clamp p p.capacityInit
  count := 0
  writeIndex := 0
  sorted := false
  buf := List.replicate p.maxSize 0
  ord := List.range p.maxSize
  status := .ok
  result := 0
  sortSwaps := 0
  program := []
  cp := 0
  wait := none
  history := []
  clockIn := []
  levelIn := []
  byteIn := []
  drawn := 0

/-- The machine right after reset: construction (R230) with the parameters of log entry 1. -/
def State.reset : State :=
  State.construct Params.test

/-- The two arrays of the filter (20_memory R50). -/
inductive Storage where
  | buf
  | ord
  deriving DecidableEq, Repr

/-- The model's faults. -/
inductive Fault where
  /-- An index outside `0..CAPACITY-1` into BUF or ORD. Raised by the reads and writes of the two
  arrays (Machine/Ops.lean). Safe: 20_memory R52 lets a model fault here and no state that meets the
  invariants of 10_state R28 reaches it. -/
  | indexOutOfRange (array : Storage) (index : Nat)
  deriving DecidableEq, Repr

/-- The model's refusals. -/
inductive Refusal where
  /-- An instruction that has no meaning in `exec`. Raised by no arm of this model. Safe: the machine
  stops. -/
  | notModelled (mnemonic : String)
  /-- A configuration that breaks 00_scope R7. Raised by `step` before anything else. Safe: R7 and
  60_exceptions R218 refuse it. -/
  | illFormedConfiguration
  deriving DecidableEq, Repr

/-- What a step or a meaning answers. -/
abbrev Answer := Host.Outcome State Fault Refusal

end Sys2Proof.Machine
end

