-- ==== Sys2Proof/Machine/Ops.lean ====
section
/-!
DEFINITION. The named operations over the state: host primitives (00_scope R10), access to BUF and
ORD (20_memory R50 to R52), completion of a command (00_scope R11) and the command port (10_state R24,
20_memory R59).

The engine takes no trap (60_exceptions R205): what stands in the place of taking an exception is
`State.raise`, and there is no return from one (R208).
-/

namespace Sys2Proof.Machine

/-! ### Host primitives: one event each, in the order of the calls -/

/-- One more event of the history (20_memory R59). -/
def State.record (e : Event) (s : State) : State :=
  { s with history := s.history ++ [e] }

/-- The host's answer to the next `Now()`: the next one of its queue, or a free value. -/
def State.clockAnswer (s : State) : Word :=
  s.clockIn.head?.getD (Config.freeClock s.drawn)

/-- The host's answer to the next `PinRead(DATA)`: the next one of its queue, or a free value. -/
def State.levelAnswer (s : State) : Level :=
  s.levelIn.head?.getD (Config.freeLevel s.drawn)

/-- The host's answer to the next `ShiftInByte()`: the next one of its queue, or a free value. -/
def State.byteAnswer (s : State) : Byte :=
  s.byteIn.head?.getD (Config.freeByte s.drawn)

/-- The state after the host answered `t` to a `Now()`. -/
def State.tellClock (t : Word) (s : State) : State :=
  State.record (.now t) { s with clockIn := s.clockIn.tail, drawn := s.drawn + 1 }

/-- `Now()`: the answer, and the state after the call. -/
def State.now (s : State) : Word × State :=
  (s.clockAnswer, s.tellClock s.clockAnswer)

/-- The host's answer to the `Now()` of an iteration of a ready wait. It is `State.clockAnswer`, but that the
free answer of a host out of patience is at or past the deadline: the fairness duty of 20_memory R61, by
which 60_exceptions R218 excludes a wait without end (log entry 11). -/
def State.pollAnswer (start timeout : Word) (patience : Nat) (s : State) : Word :=
  s.clockIn.head?.getD
    (match patience with
    | 0 => lateClock start timeout (Config.freeClock s.drawn)
    | _ + 1 => Config.freeClock s.drawn)

/-- The `Now()` of an iteration of a ready wait: the answer, and the state after the call. -/
def State.pollNow (start timeout : Word) (patience : Nat) (s : State) : Word × State :=
  (s.pollAnswer start timeout patience, s.tellClock (s.pollAnswer start timeout patience))

/-- The patience a ready wait starts with: its first iteration is under no duty, and any number of later
ones. -/
def State.freshPatience (s : State) : Nat :=
  Config.freePatience s.drawn + 1

/-- `PinRead(DATA)`: the answer, and the state after the call. -/
def State.pinRead (s : State) : Level × State :=
  (s.levelAnswer,
    State.record (.pinRead s.params.dataPin s.levelAnswer)
      { s with levelIn := s.levelIn.tail, drawn := s.drawn + 1 })

/-- `ShiftInByte()`: the answer, and the state after the call. -/
def State.shiftInByte (s : State) : Byte × State :=
  (s.byteAnswer,
    State.record (.shiftInByte s.params.dataPin s.params.clockPin s.byteAnswer)
      { s with byteIn := s.byteIn.tail, drawn := s.drawn + 1 })

/-- `PinWrite(CLK, level)`. -/
def State.writeClock (level : Level) (s : State) : State :=
  s.record (.pinWrite s.params.clockPin level)

/-- `PinMode(pin, mode)`. -/
def State.setPinMode (pin : PinId) (mode : PinMode) (s : State) : State :=
  s.record (.pinMode pin mode)

/-- `Yield()`: the event; the engine is then suspended until its next step (20_memory R62). -/
def State.yield (s : State) : State :=
  s.record .yield

/-! ### BUF and ORD: whole entries, index in `0..CAPACITY-1`, no wrap and no clip (20_memory R51, R52) -/

/-- The entry `i` of an array whose range in use is `0..capacity-1`. -/
def readEntry {α : Type} (array : Storage) (entries : List α) (capacity i : Nat) : Except Fault α :=
  match entries[i]? with
  | some v => if i < capacity then .ok v else .error (.indexOutOfRange array i)
  | none => .error (.indexOutOfRange array i)

/-- The array with its entry `i` replaced. -/
def writeEntry {α : Type} (array : Storage) (entries : List α) (capacity i : Nat) (v : α) :
    Except Fault (List α) :=
  if i < capacity ∧ i < entries.length then .ok (entries.set i v)
  else .error (.indexOutOfRange array i)

/-- `BUF[i]`. -/
def State.bufRead (i : Nat) (s : State) : Except Fault Word :=
  readEntry .buf s.buf s.capacity i

/-- `BUF[i] <- v`. -/
def State.bufWrite (i : Nat) (v : Word) (s : State) : Except Fault State :=
  match writeEntry .buf s.buf s.capacity i v with
  | .ok entries => .ok { s with buf := entries }
  | .error f => .error f

/-- `ORD[i]`. -/
def State.ordRead (i : Nat) (s : State) : Except Fault Nat :=
  readEntry .ord s.ord s.capacity i

/-- `ORD[i] <- v`. -/
def State.ordWrite (i v : Nat) (s : State) : Except Fault State :=
  match writeEntry .ord s.ord s.capacity i v with
  | .ok entries => .ok { s with ord := entries }
  | .error f => .error f

/-- `BUF[ORD[k]]`. -/
def State.valueAt (k : Nat) (s : State) : Except Fault Word :=
  match s.ordRead k with
  | .ok i => s.bufRead i
  | .error f => .error f

/-- `ORD[i] <- i` for every `i` in `0..CAPACITY-1` (41_filter R143); the entries above stay. -/
def State.ordIdentity (s : State) : Except Fault State :=
  if s.capacity ≤ s.ord.length then
    .ok { s with ord := List.range s.capacity ++ s.ord.drop s.capacity }
  else .error (.indexOutOfRange .ord s.ord.length)

/-! ### Completion of a command -/

/-- `finish(st, r)` (00_scope R11). -/
def State.finish (status : Status) (result : Word) (s : State) : State :=
  { s with status := status, result := result }

/-- `raise TimedOut()`, `raise EmptyFilter()`, `raise IllegalCommand()` (00_scope R11): a returned
result, not a trap; nothing is saved and nothing is rolled back (60_exceptions R205, R206). -/
def State.raise (r : Raise) (s : State) : State :=
  s.finish r.status 0

/-- The end of a command that returns a value or raises. -/
def State.finishWith (value : Except Raise Word) (s : State) : State :=
  match value with
  | .ok v => s.finish .ok v
  | .error r => s.raise r

/-- What a meaning answers, from the steps of its pseudocode: the next state, or the fault of an
index out of range. -/
def answer : Except Fault State → Answer
  | .ok s => .next s
  | .error f => .fault f

/-! ### The command port -/

/-- The word the host presents at the command position, if its program has one there (10_state R24). -/
def State.fetch (s : State) : Option CommandWord :=
  s.program[s.cp]?

/-- A command that has finished: its completion event, and the position advances by 1 "whatever its
status" (20_memory R59, 10_state R24). -/
def State.complete (w : CommandWord) (s : State) : State :=
  State.record (.command w s.status s.result) { s with cp := s.cp + 1 }

/-- After the command `w` ran: it has finished unless a ready wait holds it at its `Yield()`. -/
def State.settle (w : CommandWord) (s : State) : State :=
  match s.wait with
  | none => s.complete w
  | some _ => s

/-- `State.settle` on what a meaning answers. -/
def settleAnswer (w : CommandWord) : Answer → Answer
  | .next s => .next (s.settle w)
  | .fault f => .fault f
  | .refused r => .refused r

/-- An illegal word (30_encoding R84, 60_exceptions R204). -/
def illegalCommand (s : State) : Answer :=
  .next (s.raise .illegalCommand)

/-- The host's program with the word `w` at position `cp`; a position past its end is filled up with
all-zero words, which are illegal commands (30_encoding R84). -/
def placeWord (program : List CommandWord) (cp : Nat) (w : CommandWord) : List CommandWord :=
  program.take cp ++ List.replicate (cp - program.length) 0 ++ w :: program.drop (cp + 1)

end Sys2Proof.Machine
end

