-- ==== Sys2Proof/Machine/Flags.lean ====
section
/-!
DEFINITION. The one flag, SORTED (10_state R25). There is no carry, overflow, zero or sign flag.
-/

namespace Sys2Proof.Machine

/-- SORTED <- 1, by the median step with COUNT > 0 (41_filter R149, R155). -/
def State.markSorted (s : State) : State :=
  { s with sorted := true }

/-- SORTED <- 0, by the clear and the add (41_filter R143, R146). -/
def State.markUnsorted (s : State) : State :=
  { s with sorted := false }

/-- {Empty, Partial, Full} (10_state R30). -/
inductive Fill where
  | empty
  | partly
  | full
  deriving DecidableEq, Repr

/-- The fill of the filter, from COUNT and CAPACITY; with COUNT the flag SORTED gives the mode of
10_state R30, which is not stored. -/
def State.fill (s : State) : Fill :=
  if s.count = 0 then .empty
  else if s.count < s.capacity then .partly
  else .full

end Sys2Proof.Machine
end

