-- ==== Sys2Proof/Machine/Filter.lean ====
section
/-!
DEFINITION. The filter commands (41_filter): FILTER_CONFIGURE, FILTER_CLEAR, FILTER_ADD,
FILTER_GET_MEDIAN, and the steps they share with READ_MEDIAN. None makes a host call (R140).
-/

namespace Sys2Proof.Machine

/-- `clear_step()` (41_filter R143). -/
def State.clearStep (s : State) : Except Fault State :=
  (State.markUnsorted { s with count := 0, writeIndex := 0 }).ordIdentity

/-- Construct the filter anew with a clamped capacity (41_filter R142, 42_composite R182). -/
def State.reconfigure (req : Word) (s : State) : Except Fault State :=
  State.clearStep { s with capacity := clamp s.params req }

/-- `add_step(v)` (41_filter R146). -/
def State.addStep (v : Word) (s : State) : Except Fault State :=
  match s.bufWrite s.writeIndex v with
  | .ok s1 =>
    .ok (State.markUnsorted
      { s1 with
        writeIndex := (s.writeIndex + 1) % s.capacity
        count := if s.count < s.capacity then s.count + 1 else s.count })
  | .error f => .error f

/-- One comparison of the sort at `j` (41_filter R150): the entries `ORD[j-1]` and `ORD[j]` are
exchanged if their values are out of order. The number of exchanges, 0 or 1, and the state. -/
def State.compareExchange (j : Nat) (s : State) : Except Fault (Nat × State) := do
  let left ← s.valueAt (j - 1)
  let right ← s.valueAt j
  if outOfOrder left right then
    let tmp ← s.ordRead (j - 1)
    let upper ← s.ordRead j
    let s1 ← s.ordWrite (j - 1) upper
    let s2 ← s1.ordWrite j tmp
    .ok (1, s2)
  else .ok (0, s)

/-- A pass over the positions `j, j+1, ...`, `n` comparisons (41_filter R150). -/
def State.sortPass : Nat → Nat → State → Except Fault (Nat × State)
  | 0, _, s => .ok (0, s)
  | n + 1, j, s => do
    let (x, s1) ← s.compareExchange j
    let (y, s2) ← s1.sortPass n (j + 1)
    .ok (x + y, s2)

/-- The passes that remain, `n` of them: the next one makes `n` comparisons, each later one fewer; a
pass with no exchange ends the sort (41_filter R150). -/
def State.sortPasses : Nat → State → Except Fault (Nat × State)
  | 0, s => .ok (0, s)
  | n + 1, s => do
    let (x, s1) ← s.sortPass (n + 1) 1
    if x = 0 then .ok (0, s1)
    else
      let (y, s2) ← s1.sortPasses n
      .ok (x + y, s2)

/-- `sort_step()` (41_filter R150): the number of exchanges, and the state. Pass `i` makes
`COUNT-1-i` comparisons. -/
def State.sortStep (s : State) : Except Fault (Nat × State) :=
  s.sortPasses (s.count - 1)

/-- `select()` (41_filter R151). -/
def State.select (s : State) : Except Fault Word := do
  let upper ← s.valueAt (s.count / 2)
  if s.count % 2 = 1 then .ok upper
  else
    let lower ← s.valueAt (s.count / 2 - 1)
    .ok (average upper lower)

/-- The lazy sort of the median step (41_filter R149, R154): it runs only if SORTED = 0, and
SORT_SWAPS takes the number of exchanges made. -/
def State.ensureSorted (s : State) : Except Fault State :=
  if s.sorted then .ok { s with sortSwaps := 0 }
  else do
    let (swaps, s1) ← s.sortStep
    .ok { s1 with sortSwaps := swaps }

/-- `median_step()` (41_filter R149): the median or EmptyFilter, and the state. -/
def State.medianStep (s : State) : Except Fault (Except Raise Word × State) :=
  if s.count = 0 then .ok (.error .emptyFilter, s)
  else do
    let s1 ← s.ensureSorted
    let s2 := s1.markSorted
    let m ← s2.select
    .ok (.ok m, s2)

/-- The median step and the end of the command it belongs to (41_filter R148, 42_composite R180). -/
def State.finishMedian (s : State) : Except Fault State := do
  let (m, s1) ← s.medianStep
  .ok (s1.finishWith m)

/-- FILTER_CONFIGURE (41_filter R142): RESULT is the capacity taken. -/
def execFilterConfigure (req : Word) (s : State) : Answer :=
  answer (do
    let s1 ← s.reconfigure req
    .ok (s1.finish .ok (BitVec.ofNat 32 s1.capacity)))

/-- FILTER_CLEAR (41_filter R144). -/
def execFilterClear (s : State) : Answer :=
  answer (do
    let s1 ← s.clearStep
    .ok (s1.finish .ok 0))

/-- FILTER_ADD (41_filter R145). -/
def execFilterAdd (value : Word) (s : State) : Answer :=
  answer (do
    let s1 ← s.addStep value
    .ok (s1.finish .ok 0))

/-- FILTER_GET_MEDIAN (41_filter R148). -/
def execFilterGetMedian (s : State) : Answer :=
  answer s.finishMedian

end Sys2Proof.Machine
end

