-- ==== Sys2Proof/Machine/Reader.lean ====
section
/-!
DEFINITION. The reader commands (40_reader): BEGIN, SET_GAIN, IS_READY, READ, POWER_DOWN, POWER_UP,
and the steps READ shares with READ_MEDIAN.

A ready wait is cut into steps at its `Yield()`, the one suspension point (40_reader R108,
42_composite R183; 00_scope R12 allows the cut): the state holds the wait, and the next step makes
the next iteration. The host's duties of 20_memory R61 and R62 hold of every run (60_exceptions R218): a
`Yield()` returns in the next step, and the clock reaches the deadline (`State.pollAnswer`).
-/

namespace Sys2Proof.Machine

/-- `pulse()` (40_reader R103): HIGH then LOW, nothing between. -/
def State.pulse (s : State) : State :=
  (s.writeClock .high).writeClock .low

/-- `n` pulses. -/
def State.pulses : Nat → State → State
  | 0, s => s
  | n + 1, s => s.pulse.pulses n

/-- The shift-in, the gain pulses and the assembly of READ (40_reader R110 to R112): the reading, and
the state after the last pulse. -/
def State.takeReading (s : State) : Word × State :=
  match s.shiftInByte with
  | (b2, s1) =>
    match s1.shiftInByte with
    | (b1, s2) =>
      match s2.shiftInByte with
      | (b0, s3) => (assemble b2 b1 b0, s3.pulses s3.gainPulses.toNat)

/-- How one iteration of the ready wait ends. -/
inductive Poll where
  /-- The deadline check fired. -/
  | deadline
  /-- The sample was LOW. -/
  | ready
  /-- The sample was HIGH, and the engine yielded. -/
  | yielded
  deriving DecidableEq, Repr

/-- One iteration of the ready wait (40_reader R107, R108): clock read, deadline check, one sample,
and `Yield()` only after a HIGH sample. -/
def State.poll (start timeout : Word) (patience : Nat) (s : State) : Poll × State :=
  match s.pollNow start timeout patience with
  | (t, s1) =>
    if deadlineReached start timeout t then (.deadline, s1)
    else
      match s1.pinRead with
      | (.low, s2) => (.ready, s2)
      | (.high, s2) => (.yielded, s2.yield)

/-- The state suspended at a `Yield()` that ends an iteration made with `patience`. -/
def State.suspend (start : Word) (task : WaitTask) (patience : Nat) (s : State) : State :=
  { s with wait := some { start := start, task := task, patience := patience - 1 } }

/-- READ from an iteration of its wait on (40_reader R107). -/
def State.readFrom (start timeout : Word) (patience : Nat) (s : State) : State :=
  match s.poll start timeout patience with
  | (.deadline, s1) => s1.raise .timedOut
  | (.ready, s1) =>
    match s1.takeReading with
    | (v, s2) => s2.finish .ok v
  | (.yielded, s1) => s1.suspend start (.read timeout) patience

/-- BEGIN (40_reader R104). -/
def execBegin (s : State) : Answer :=
  .next (((s.setPinMode s.params.clockPin .output).setPinMode s.params.dataPin .input).finish .ok 0)

/-- SET_GAIN (40_reader R105): no pin event. -/
def execSetGain (code : Word) (s : State) : Answer :=
  .next (State.finish .ok 0 { s with gainPulses := gainPulses code })

/-- IS_READY (40_reader R106). -/
def execIsReady (s : State) : Answer :=
  match s.pinRead with
  | (level, s1) => .next (s1.finish .ok (if level = .low then 1 else 0))

/-- READ (40_reader R107): the start of its wait, then the wait. -/
def execRead (timeout : Word) (s : State) : Answer :=
  match s.now with
  | (start, s1) => .next (s1.readFrom start timeout s1.freshPatience)

/-- POWER_DOWN (40_reader R115): the clock is left HIGH. -/
def execPowerDown (s : State) : Answer :=
  .next (((s.writeClock .low).writeClock .high).finish .ok 0)

/-- POWER_UP (40_reader R116). -/
def execPowerUp (s : State) : Answer :=
  .next ((s.writeClock .low).finish .ok 0)

end Sys2Proof.Machine
end

