-- ==== Sys2Proof/Machine/Composite.lean ====
section
/-!
DEFINITION. READ_MEDIAN (42_composite), and the continuation of a command suspended at a `Yield()`.
-/

namespace Sys2Proof.Machine

/-- READ_MEDIAN from an iteration of a reading's wait on, with `left` readings to follow that one
(42_composite R180, R183, R184): a timeout ends the command, a HIGH sample suspends it, and a reading
is added; then the next reading starts with its own clock value, or the median step ends the command. -/
def State.medianFrom (left : Nat) (start : Word) (patience : Nat) (s : State) : Except Fault State :=
  match s.poll start Config.readMedianTimeout patience with
  | (.deadline, s1) => .ok (s1.raise .timedOut)
  | (.yielded, s1) => .ok (s1.suspend start (.median left) patience)
  | (.ready, s1) =>
    match s1.takeReading with
    | (v, s2) =>
      match s2.addStep v with
      | .error f => .error f
      | .ok s3 =>
        match left with
        | 0 => s3.finishMedian
        | n + 1 =>
          match s3.now with
          | (next, s4) => s4.medianFrom n next s4.freshPatience

/-- READ_MEDIAN (42_composite R180): with `times <= 0` nothing is touched (R181); else a fresh filter
(R182) and `times` readings. -/
def execReadMedian (times : Word) (s : State) : Answer :=
  if s32 times ≤ 0 then .next (s.raise .emptyFilter)
  else
    answer (do
      let s1 ← s.reconfigure times
      let (start, s2) := s1.now
      s2.medianFrom ((s32 times).toNat - 1) start s2.freshPatience)

/-- The next iteration of a wait, after the host returned from the `Yield()` (40_reader R107). -/
def resume (w : Wait) (s : State) : Answer :=
  match w.task with
  | .read timeout => .next (State.readFrom w.start timeout w.patience { s with wait := none })
  | .median left => answer (State.medianFrom left w.start w.patience { s with wait := none })

end Sys2Proof.Machine
end

