-- ==== Sys2Proof/Machine/Dispatch.lean ====
section
/-!
DEFINITION. One arm per command: the meaning it has.
-/

namespace Sys2Proof.Machine

def exec (i : Instr) (s : State) : Host.Outcome State Fault Refusal :=
  match i with
  | .begin => Sys2Proof.Machine.execBegin s
  | .setGain code => Sys2Proof.Machine.execSetGain code s
  | .isReady => Sys2Proof.Machine.execIsReady s
  | .read timeout => Sys2Proof.Machine.execRead timeout s
  | .powerDown => Sys2Proof.Machine.execPowerDown s
  | .powerUp => Sys2Proof.Machine.execPowerUp s
  | .filterConfigure req => Sys2Proof.Machine.execFilterConfigure req s
  | .filterClear => Sys2Proof.Machine.execFilterClear s
  | .filterAdd value => Sys2Proof.Machine.execFilterAdd value s
  | .filterGetMedian => Sys2Proof.Machine.execFilterGetMedian s
  | .readMedian times => Sys2Proof.Machine.execReadMedian times s

end Sys2Proof.Machine
end

