-- ==== Sys2Proof/Machine/Step.lean ====
section
/-!
DEFINITION. One step of the engine (00_scope R12).
-/

namespace Sys2Proof.Machine

/-- One step. A configuration that breaks 00_scope R7 is refused first. With no word presented the
engine waits for the host (70_reset_and_hazards R232) and nothing changes. A command suspended at its
`Yield()` goes on, and no other command can start before it has finished (20_memory R62). Else the
word presented is decoded and run; an illegal word finishes with ILLEGAL_COMMAND. -/
def step (s : State) : Host.Outcome State Fault Refusal :=
  if s.params.wellFormed then
    match s.fetch with
    | none => .next s
    | some w =>
      settleAnswer w
        (match s.wait with
        | some wait => resume wait s
        | none =>
          match decode w with
          | .ok i => exec i s
          | .error _ => illegalCommand s)
  else .refused .illFormedConfiguration

/-- The state with the word `w`, of `nbits` bits as spec/opcode_table.json numbers them, presented by
the host as its next command, and no wait in progress, so that the next step runs it. -/
def State.withFetchWord (s : State) (nbits w : Nat) : State :=
  { s with
    program := placeWord s.program s.cp (BitVec.ofNat 40 (w % 2 ^ nbits))
    wait := none }

end Sys2Proof.Machine
end

