-- ==== Sys2Proof/Machine/Assembler.lean ====
section
/-!
DEFINITION. The written form of a command (30_encoding R87) and the pseudo-instructions (R88), as a
line assembler from characters to words. It is outside the engine: no step uses it.
-/

namespace Sys2Proof.Machine

/-- Why the assembler refuses a line (30_encoding R87). -/
inductive AsmError where
  | unknownMnemonic
  | missingOperand
  | unexpectedOperand
  | notANumber
  | operandDoesNotFit
  | tooManyOperands
  deriving DecidableEq, Repr

/-- The commands by name (30_encoding R82). -/
inductive Mnemonic where
  | begin
  | setGain
  | isReady
  | read
  | powerDown
  | powerUp
  | filterConfigure
  | filterClear
  | filterAdd
  | filterGetMedian
  | readMedian
  deriving DecidableEq, Repr

/-- The command a name stands for: the mnemonics of R82 and the aliases of R88. -/
def mnemonicOf (name : List Char) : Option Mnemonic :=
  if name = "BEGIN".toList ∨ name = "begin".toList then some .begin
  else if name = "SET_GAIN".toList ∨ name = "setGain".toList then some .setGain
  else if name = "IS_READY".toList ∨ name = "isReady".toList then some .isReady
  else if name = "READ".toList ∨ name = "read".toList then some .read
  else if name = "POWER_DOWN".toList ∨ name = "powerDown".toList then some .powerDown
  else if name = "POWER_UP".toList ∨ name = "powerUp".toList then some .powerUp
  else if name = "FILTER_CONFIGURE".toList then some .filterConfigure
  else if name = "FILTER_CLEAR".toList ∨ name = "clear".toList then some .filterClear
  else if name = "FILTER_ADD".toList ∨ name = "add".toList then some .filterAdd
  else if name = "FILTER_GET_MEDIAN".toList ∨ name = "getMedian".toList then some .filterGetMedian
  else if name = "READ_MEDIAN".toList ∨ name = "readMedian".toList then some .readMedian
  else none

/-- The command of a name with its operand word; one without operand ignores it. -/
def Mnemonic.instr (m : Mnemonic) (arg : Word) : Instr :=
  match m with
  | .begin => .begin
  | .setGain => .setGain arg
  | .isReady => .isReady
  | .read => .read arg
  | .powerDown => .powerDown
  | .powerUp => .powerUp
  | .filterConfigure => .filterConfigure arg
  | .filterClear => .filterClear
  | .filterAdd => .filterAdd arg
  | .filterGetMedian => .filterGetMedian
  | .readMedian => .readMedian arg

/-- The operand of a command written without one: the defaults of R88. -/
def Mnemonic.default : Mnemonic → Option Word
  | .read => some Config.readDefaultTimeout
  | .readMedian => some Config.readMedianDefaultTimes
  | .begin => none
  | .setGain => none
  | .isReady => none
  | .powerDown => none
  | .powerUp => none
  | .filterConfigure => none
  | .filterClear => none
  | .filterAdd => none
  | .filterGetMedian => none

/-- A decimal digit. -/
def decDigit (c : Char) : Option Nat :=
  if 48 ≤ c.toNat ∧ c.toNat ≤ 57 then some (c.toNat - 48) else none

/-- A hexadecimal digit, in either case. -/
def hexDigit (c : Char) : Option Nat :=
  if 48 ≤ c.toNat ∧ c.toNat ≤ 57 then some (c.toNat - 48)
  else if 97 ≤ c.toNat ∧ c.toNat ≤ 102 then some (c.toNat - 87)
  else if 65 ≤ c.toNat ∧ c.toNat ≤ 70 then some (c.toNat - 55)
  else none

/-- The value of a string of digits to a base, after the value `acc` of those before it. -/
def digitsValue (digit : Char → Option Nat) (base : Nat) : Nat → List Char → Option Nat
  | acc, [] => some acc
  | acc, c :: rest =>
    match digit c with
    | some d => digitsValue digit base (acc * base + d) rest
    | none => none

/-- A nonempty string of decimal digits. -/
def decimalValue (digits : List Char) : Option Nat :=
  match digits with
  | [] => none
  | c :: rest => digitsValue decDigit 10 0 (c :: rest)

/-- An operand as written: `0x` and hexadecimal digits, or a decimal integer with an optional minus. -/
def writtenOperand (text : List Char) : Option Written :=
  match text with
  | '0' :: 'x' :: digits => (digitsValue hexDigit 16 0 digits).map (Written.hex digits.length)
  | '-' :: digits => (decimalValue digits).map fun n => Written.decimal (-(n : Int))
  | digits => (decimalValue digits).map fun n => Written.decimal (n : Int)

/-- `operand mod 2^32`, refused if the operand does not fit its decoding (R87). -/
def operandWord (kind : OperandKind) (w : Written) : Except AsmError Word :=
  if w.wellFormed kind then
    match w with
    | .decimal v => .ok (BitVec.ofInt 32 v)
    | .hex _ v => .ok (BitVec.ofNat 32 v)
  else .error .operandDoesNotFit

/-- The gain names of R88. -/
def gainName (text : List Char) : Option Word :=
  if text = "A128".toList then some 128
  else if text = "A64".toList then some 64
  else if text = "B32".toList then some 32
  else none

/-- The operand kind of a name (30_encoding R82). -/
def Mnemonic.kind (m : Mnemonic) : OperandKind :=
  (m.instr 0).operandKind

/-- The word of a written operand of the command `m`. -/
def operandOf (m : Mnemonic) (text : List Char) : Except AsmError Word :=
  match if m = .setGain then gainName text else none with
  | some w => .ok w
  | none =>
    match writtenOperand text with
    | some w => operandWord m.kind w
    | none => .error .notANumber

/-- A line's words: none (a blank line), a name, or a name and one operand. -/
def assembleTokens : List (List Char) → Except AsmError (Option Instr)
  | [] => .ok none
  | [name] =>
    match mnemonicOf name with
    | none => .error .unknownMnemonic
    | some m =>
      if m.kind = .none then .ok (some (m.instr 0))
      else
        match m.default with
        | some w => .ok (some (m.instr w))
        | none => .error .missingOperand
  | [name, operand] =>
    match mnemonicOf name with
    | none => .error .unknownMnemonic
    | some m =>
      if m.kind = .none then .error .unexpectedOperand
      else
        match operandOf m operand with
        | .ok w => .ok (some (m.instr w))
        | .error e => .error e
  | _ :: _ :: _ :: _ => .error .tooManyOperands

/-- White space between the words of a line. -/
def isBlank (c : Char) : Bool :=
  c = ' ' || c = '\t' || c = '\r'

/-- The words of a line before its comment, which `;` starts (R87). -/
def lineTokens (line : List Char) : List (List Char) :=
  ((line.takeWhile fun c => c ≠ ';').splitOnP isBlank).filter fun t => t ≠ []

/-- One line: no command, or the word of its command (R87). -/
def assembleLine (line : List Char) : Except AsmError (Option CommandWord) :=
  match assembleTokens (lineTokens line) with
  | .ok none => .ok none
  | .ok (some i) => .ok (some (encode i))
  | .error e => .error e

/-- A program, one command a line (R87): its words, or the first line's error. -/
def assembleLines : List (List Char) → Except AsmError (List CommandWord)
  | [] => .ok []
  | line :: rest =>
    match assembleLine line with
    | .error e => .error e
    | .ok none => assembleLines rest
    | .ok (some w) =>
      match assembleLines rest with
      | .ok ws => .ok (w :: ws)
      | .error e => .error e

/-- The text of a program. -/
def assembleProgram (text : List Char) : Except AsmError (List CommandWord) :=
  assembleLines (text.splitOn '\n')

end Sys2Proof.Machine
end

