-- ==== Sys2Proof/Machine/Observe.lean ====
section
/-!
DEFINITION. What the event history says of the wires and of the chip (10_state R33, 20_memory R53,
R59, R60, 40_reader R102): functions of the history, never read by the engine.
-/

namespace Sys2Proof.Machine

/-- The level of a data bit on the wire: 1 is HIGH. PRESUMED (log entry 8): the level of a 1 is
general knowledge, as the expansion of 20_memory R60 is. -/
def bitLevel (b : Bool) : Level :=
  if b then .high else .low

/-- The expansion of one `ShiftInByte()` (20_memory R60): for bit 7 down to bit 0, clock HIGH, sample,
clock LOW. PRESUMED (log entry 8). -/
def shiftWire (data clock : PinId) (b : Byte) : List Event :=
  [7, 6, 5, 4, 3, 2, 1, 0].flatMap fun k =>
    [.pinWrite clock .high, .pinRead data (bitLevel (b.getLsbD k)), .pinWrite clock .low]

/-- The pin events of one event. -/
def Event.wire : Event → List Event
  | .shiftInByte data clock b => shiftWire data clock b
  | .now t => [.now t]
  | .pinRead pin level => [.pinRead pin level]
  | .pinWrite pin level => [.pinWrite pin level]
  | .pinMode pin mode => [.pinMode pin mode]
  | .yield => [.yield]
  | .command word status result => [.command word status result]

/-- The history with every byte expanded to its bits. -/
def wire (h : List Event) : List Event :=
  h.flatMap Event.wire

/-- The level an event writes to the pin `clock`, if it writes one. -/
def Event.written (clock : PinId) : Event → Option Level
  | .pinWrite pin level => if pin = clock then some level else none
  | .shiftInByte _ _ _ => none
  | .now _ => none
  | .pinRead _ _ => none
  | .pinMode _ _ => none
  | .yield => none
  | .command _ _ _ => none

/-- The levels written to the pin `clock`, in order. -/
def clockLevels (clock : PinId) (h : List Event) : List Level :=
  (wire h).filterMap (Event.written clock)

/-- The last level written to the pin `clock` (10_state R33); none before the first write, when the
level is the platform's (70_reset_and_hazards R231). -/
def lastClockLevel (clock : PinId) (h : List Event) : Option Level :=
  (clockLevels clock h).getLast?

/-- How many times a HIGH is followed by a LOW: the clock pulses (40_reader R103). -/
def countPulses : List Level → Nat
  | [] => 0
  | .low :: rest => countPulses rest
  | .high :: rest =>
    match rest with
    | .low :: _ => countPulses rest + 1
    | .high :: _ => countPulses rest
    | [] => 0

/-- The clock pulses of a history on the pin `clock`. -/
def clockPulses (clock : PinId) (h : List Event) : Nat :=
  countPulses (clockLevels clock h)

/-- The data bits sampled inside the bytes of a history, in the order they arrive (20_memory R53). -/
def dataBits (h : List Event) : List Bool :=
  h.flatMap fun e =>
    match e with
    | .shiftInByte _ _ b => [7, 6, 5, 4, 3, 2, 1, 0].map fun k => b.getLsbD k
    | .now _ => []
    | .pinRead _ _ => []
    | .pinWrite _ _ => []
    | .pinMode _ _ => []
    | .yield => []
    | .command _ _ _ => []

/-- The mode last set on a pin; none before BEGIN, when it is the platform's
(70_reset_and_hazards R231). -/
def lastPinMode (pin : PinId) : List Event → Option PinMode
  | [] => none
  | e :: rest =>
    match lastPinMode pin rest with
    | some m => some m
    | none =>
      match e with
      | .pinMode p m => if p = pin then some m else none
      | .shiftInByte _ _ _ => none
      | .now _ => none
      | .pinRead _ _ => none
      | .pinWrite _ _ => none
      | .yield => none
      | .command _ _ _ => none

/-- The channel and gain of a conversion (40_reader R102). -/
inductive Setting where
  /-- Channel A, gain 128. -/
  | a128
  /-- Channel B, gain 32. -/
  | b32
  /-- Channel A, gain 64. -/
  | a64
  deriving DecidableEq, Repr

/-- The setting that a number of pulses after the 24 data bits selects (40_reader R102). -/
def settingOf (pulses : Nat) : Option Setting :=
  if pulses = 1 then some .a128
  else if pulses = 2 then some .b32
  else if pulses = 3 then some .a64
  else none

/-- What is known of the chip's power (70_reset_and_hazards R234 to R236, R242). -/
inductive ChipPower where
  /-- Powered up. -/
  | up
  /-- Powered down: a command left the clock HIGH. -/
  | down
  /-- The spec gives no ground: a reader command used the pins before BEGIN (R236), or bytes were shifted out of
  a chip not powered up (R242). -/
  | unknown
  deriving DecidableEq, Repr

/-- The chip as the history shows it. -/
structure ChipView where
  /-- BEGIN has made the clock pin an output (R234). -/
  begun : Bool
  /-- The clock was last written HIGH. -/
  clockHigh : Bool
  power : ChipPower
  /-- Pulses since the last byte, while they can follow one. -/
  pulses : Option Nat
  /-- The channel and gain of the conversion that the next READ returns, where the spec gives a ground. -/
  setting : Option Setting
  deriving DecidableEq, Repr

/-- The chip at construction: just powered up, so its first conversion is on channel A, gain 128
(R235). PRESUMED (log entry 14): the setting is general knowledge. -/
def ChipView.poweredUp : ChipView :=
  { begun := false, clockHigh := false, power := .up, pulses := none, setting := some .a128 }

/-- The pin rules of 40_reader hold (R234): BEGIN has been issued and the chip is powered up. -/
def ChipView.ready (v : ChipView) : Bool :=
  v.begun && decide (v.power = .up)

/-- After host calls that leave a claim about the chip without ground (R236, R242). -/
def ChipView.lost (v : ChipView) : ChipView :=
  { v with clockHigh := false, power := .unknown, pulses := none, setting := none }

/-- The rising edge of a clock pulse: one more pulse after the data bits (40_reader R102). -/
def ChipView.rise (v : ChipView) : ChipView :=
  match v.pulses with
  | some n => { v with clockHigh := true, pulses := some (n + 1), setting := settingOf (n + 1) }
  | none => { v with clockHigh := true }

/-- The clock written LOW: it wakes a chip that is powered down, to channel A, gain 128 (40_reader R116, R242).
PRESUMED (log entry 14). -/
def ChipView.fall (v : ChipView) : ChipView :=
  match v.power with
  | .up => { v with clockHigh := false }
  | .down => { v with clockHigh := false, power := .up, setting := some .a128 }
  | .unknown => { v with clockHigh := false, power := .up }

/-- After a host primitive call other than `PinMode`: `after` once BEGIN has been issued; before it, no ground,
whichever call of a reader command it is, a sample or a clock read as well (R236). -/
def ChipView.called (v after : ChipView) : ChipView :=
  if v.begun then after else v.lost

/-- One event. A command that leaves the clock HIGH powers the chip down (40_reader R115, R242; PRESUMED, log
entry 14). -/
def ChipView.next (clock : PinId) (v : ChipView) : Event → ChipView
  | .shiftInByte _ _ _ =>
    v.called (if v.ready then { v with clockHigh := false, pulses := some 0 } else v.lost)
  | .pinWrite pin level =>
    v.called
      (if pin = clock then
        match level with
        | .high => v.rise
        | .low => v.fall
      else v)
  | .pinMode pin mode => if pin = clock then { v with begun := decide (mode = .output) } else v
  | .command _ _ _ => { v with pulses := none, power := if v.clockHigh then .down else v.power }
  | .now _ => v.called v
  | .pinRead _ _ => v.called v
  | .yield => v.called v

/-- The chip after a history. -/
def chipView (clock : PinId) (h : List Event) : ChipView :=
  h.foldl (ChipView.next clock) .poweredUp

/-- The channel and gain of the conversion that the next READ returns: those the last pulses selected
(40_reader R102, 70_reset_and_hazards R240), or channel A, gain 128 after a power-up (R235, R242); none
where the spec gives no ground (R236). -/
def nextSetting (clock : PinId) (h : List Event) : Option Setting :=
  (chipView clock h).setting

end Sys2Proof.Machine
end

