-- ==== Sys2Proof/Safety.lean ====
section
/-!
DEFINITION. What a well-behaved state is (10_state R26, R28, R29; 60_exceptions R200), and the terms the
claims use: the values held, the median of a list, the host's answers by position.
-/

namespace Sys2Proof.Machine

/-- `BUF[ORD[k]]`, if both entries exist. -/
def State.valueOf (s : State) (k : Nat) : Option Word :=
  (s.ord[k]?).bind fun i => s.buf[i]?

/-- The values held, in slot order. -/
def State.held (s : State) : List Word :=
  s.buf.take s.count

/-- The values held, oldest first (10_state R28, item 6): when full, the slot WRITE_INDEX names is the
oldest. -/
def State.window (s : State) : List Word :=
  if s.count < s.capacity then s.buf.take s.count
  else (s.buf.take s.capacity).drop s.writeIndex ++ s.buf.take s.writeIndex

/-- The last `n` entries of a list. -/
def lastOf (n : Nat) {α : Type} (l : List α) : List α :=
  l.drop (l.length - n)

/-- The order of values (41_filter R153): signed, not strict. -/
abbrev valueLe (a b : Word) : Prop :=
  a.toInt ≤ b.toInt

/-- The median of a list of values (41_filter R151, R152, R156): the middle one of the sorted list, or the
truncated average of the two central ones. -/
def medianOf (values : List Word) : Word :=
  let sorted := values.insertionSort valueLe
  let m := values.length / 2
  if values.length % 2 = 1 then sorted.getD m 0
  else BitVec.ofInt 32 (((sorted.getD m 0).toInt + (sorted.getD (m - 1) 0).toInt).tdiv 2)

/-- How many pairs of entries are out of order (41_filter R153). -/
def inversions : List Word → Nat
  | [] => 0
  | a :: rest => rest.countP (fun b => decide (b.toInt < a.toInt)) + inversions rest

/-- Indices in non-decreasing order of the values they name, equal values as they stood: insertion by value
(41_filter R150, R153). -/
def orderBy (buf : List Word) (indices : List Nat) : List Nat :=
  indices.insertionSort fun i j => (buf.getD i 0).toInt ≤ (buf.getD j 0).toInt

/-- The pairs of indices whose values are out of order. -/
def inversionsBy (buf : List Word) (indices : List Nat) : Nat :=
  inversions (indices.map fun i => buf.getD i 0)

/-- The host's answer to the `k`-th `Now()` from here on, if it is the `d`-th answer of all. -/
def State.clockAt (s : State) (k d : Nat) : Word :=
  (s.clockIn[k]?).getD (Config.freeClock (s.drawn + d))

/-- The host's answer to the `k`-th `PinRead(DATA)` from here on, if it is the `d`-th answer of all. -/
def State.levelAt (s : State) (k d : Nat) : Level :=
  (s.levelIn[k]?).getD (Config.freeLevel (s.drawn + d))

/-- The host's answer to the `k`-th `ShiftInByte()` from here on, if it is the `d`-th answer of all. -/
def State.byteAt (s : State) (k d : Nat) : Byte :=
  (s.byteIn[k]?).getD (Config.freeByte (s.drawn + d))

/-- The patience of the ready wait whose start is the `d`-th answer from here on, after its first iteration. -/
def State.patienceAt (s : State) (d : Nat) : Nat :=
  Config.freePatience (s.drawn + d + 1)

/-- The filter is well formed (10_state R26, R28 items 1 to 4, R29), whatever command runs. -/
structure State.FilterInv (s : State) : Prop where
  capacity_ge : s.params.minSize ≤ s.capacity
  capacity_le : s.capacity ≤ s.params.maxSize
  buf_length : s.buf.length = s.params.maxSize
  ord_length : s.ord.length = s.params.maxSize
  ord_legal : ∀ i ∈ s.ord, i < s.params.maxSize
  count_le : s.count ≤ s.capacity
  writeIndex_lt : s.writeIndex < s.capacity
  partly_filled : s.count < s.capacity → s.writeIndex = s.count
  ord_perm : (s.ord.take s.capacity).Perm (List.range s.capacity)
  ord_prefix : (s.ord.take s.count).Perm (List.range s.count)
  ord_tail : s.count < s.capacity → ∀ k, s.count ≤ k → k < s.capacity → s.ord[k]? = some k
  sorted_nonempty : s.sorted = true → 0 < s.count
  ordered : s.sorted = true → ∀ k a b, k + 1 < s.count → s.valueOf k = some a →
    s.valueOf (k + 1) = some b → a.toInt ≤ b.toInt

/-- The wait belongs to the word at the command position (20_memory R62: no other command while it
stands). -/
def State.WaitMatches (s : State) : Prop :=
  match s.wait with
  | none => True
  | some wait =>
    match s.fetch with
    | none => False
    | some w =>
      match wait.task with
      | .read timeout => decode w = .ok (.read timeout)
      | .median left => ∃ times : Word, decode w = .ok (.readMedian times) ∧ (left : Int) < times.toInt

/-- The invariant of the engine: legal parameters (00_scope R7), legal GAIN_PULSES (10_state R26), a well
formed filter, RESULT = 0 with every error status (60_exceptions R200), a command position in the
program (10_state R24), and a wait only for the word that is presented. -/
structure State.Inv (s : State) : Prop where
  params_wf : s.params.wellFormed = true
  gain_legal : s.gainPulses ≠ 0
  filter : s.FilterInv
  error_result : s.status ≠ .ok → s.result = 0
  cp_le : s.cp ≤ s.program.length
  waits : s.WaitMatches

/-- A run of adds, in order (41_filter R147): what the last one answers. -/
def addAll : List Word → State → Answer
  | [], s => .next s
  | v :: rest, s =>
    match exec (.filterAdd v) s with
    | .next t => addAll rest t
    | .fault f => .fault f
    | .refused r => .refused r

/-- One reading as the host answers it (40_reader R107, R114): the clock at its start, the clock at each
HIGH sample, the clock at the LOW sample, and the three bytes. -/
structure Reading where
  start : Word
  highs : List Word
  last : Word
  b2 : Byte
  b1 : Byte
  b0 : Byte
  deriving DecidableEq, Repr

/-- The reading's value (40_reader R112). -/
def Reading.value (r : Reading) : Word :=
  assemble r.b2 r.b1 r.b0

/-- No deadline check of the reading fires (40_reader R109). -/
def Reading.inTime (r : Reading) (timeout : Word) : Prop :=
  (∀ t ∈ r.highs, (t - r.start).toNat < timeout.toNat) ∧ (r.last - r.start).toNat < timeout.toNat

/-- The answers to `Now()` of the reading, in order. -/
def Reading.clocks (r : Reading) : List Word :=
  r.start :: r.highs ++ [r.last]

/-- The answers to `PinRead(DATA)` of the reading, in order. -/
def Reading.levels (r : Reading) : List Level :=
  List.replicate r.highs.length .high ++ [.low]

/-- The answers to `ShiftInByte()` of the reading, in order. -/
def Reading.bytes (r : Reading) : List Byte :=
  [r.b2, r.b1, r.b0]

/-- `n` gain pulses (40_reader R103, R111). -/
def pulseEvents (clock : PinId) (n : Nat) : List Event :=
  (List.replicate n [Event.pinWrite clock .high, Event.pinWrite clock .low]).flatten

/-- The events of an iteration that finds HIGH (40_reader R108). -/
def highEvents (data : PinId) (t : Word) : List Event :=
  [.now t, .pinRead data .high, .yield]

/-- The events of the iteration that finds LOW, and of the reading after it (40_reader R107). -/
def lowEvents (data clock : PinId) (gain : Nat) (t : Word) (b2 b1 b0 : Byte) : List Event :=
  [.now t, .pinRead data .low, .shiftInByte data clock b2, .shiftInByte data clock b1,
    .shiftInByte data clock b0] ++ pulseEvents clock gain

/-- The events of the reading, in order (40_reader R107). -/
def Reading.events (data clock : PinId) (gain : Nat) (r : Reading) : List Event :=
  .now r.start :: r.highs.flatMap (highEvents data) ++
    lowEvents data clock gain r.last r.b2 r.b1 r.b0

/-- The answers the reading takes from the host. -/
def Reading.answers (r : Reading) : Nat :=
  2 * r.highs.length + 6

/-- The answers to `Now()` that a list of events records, in order (20_memory R59). -/
def nowAnswers (es : List Event) : List Word :=
  es.filterMap fun e =>
    match e with
    | .now t => some t
    | .pinRead _ _ => none
    | .pinWrite _ _ => none
    | .pinMode _ _ => none
    | .shiftInByte _ _ _ => none
    | .yield => none
    | .command _ _ _ => none

/-- The answers to `PinRead(DATA)` that a list of events records, in order. -/
def levelAnswers (es : List Event) : List Level :=
  es.filterMap fun e =>
    match e with
    | .pinRead _ level => some level
    | .now _ => none
    | .pinWrite _ _ => none
    | .pinMode _ _ => none
    | .shiftInByte _ _ _ => none
    | .yield => none
    | .command _ _ _ => none

/-- The answers to `ShiftInByte()` that a list of events records, in order. -/
def byteAnswers (es : List Event) : List Byte :=
  es.filterMap fun e =>
    match e with
    | .shiftInByte _ _ b => some b
    | .now _ => none
    | .pinRead _ _ => none
    | .pinWrite _ _ => none
    | .pinMode _ _ => none
    | .yield => none
    | .command _ _ _ => none

/-- The completion events of a list of events, in order. -/
def completions (es : List Event) : List Event :=
  es.filter fun e =>
    match e with
    | .command _ _ _ => true
    | .shiftInByte _ _ _ => false
    | .now _ => false
    | .pinRead _ _ => false
    | .pinWrite _ _ => false
    | .pinMode _ _ => false
    | .yield => false

/-- The state `s` with the filter state (S2 to S7 and S10) of `f`. -/
def State.withFilter (f s : State) : State :=
  { s with
    capacity := f.capacity
    count := f.count
    writeIndex := f.writeIndex
    sorted := f.sorted
    buf := f.buf
    ord := f.ord
    sortSwaps := f.sortSwaps }

/-- The reader commands (40_reader). -/
def readerCommand : Instr → Bool
  | .begin => true
  | .setGain _ => true
  | .isReady => true
  | .read _ => true
  | .powerDown => true
  | .powerUp => true
  | .filterConfigure _ => false
  | .filterClear => false
  | .filterAdd _ => false
  | .filterGetMedian => false
  | .readMedian _ => false

/-- The commands that drive the clock pin when they complete (40_reader R111, R115, R116, 42_composite
R183). -/
def drivesClock : Instr → Bool
  | .begin => false
  | .setGain _ => false
  | .isReady => false
  | .read _ => true
  | .powerDown => true
  | .powerUp => true
  | .filterConfigure _ => false
  | .filterClear => false
  | .filterAdd _ => false
  | .filterGetMedian => false
  | .readMedian _ => true

/-- The commands that need BEGIN, each by the host calls it makes (70_reset_and_hazards R234); READ_MEDIAN makes
none with a count that is not positive (42_composite R181). -/
def needsBegin : Instr → Bool
  | .begin => false
  | .setGain _ => false
  | .isReady => true
  | .read _ => true
  | .powerDown => true
  | .powerUp => true
  | .filterConfigure _ => false
  | .filterClear => false
  | .filterAdd _ => false
  | .filterGetMedian => false
  | .readMedian times => decide (0 < times.toInt)

/-- The filter commands (41_filter). -/
def filterCommand : Instr → Bool
  | .begin => false
  | .setGain _ => false
  | .isReady => false
  | .read _ => false
  | .powerDown => false
  | .powerUp => false
  | .filterConfigure _ => true
  | .filterClear => true
  | .filterAdd _ => true
  | .filterGetMedian => true
  | .readMedian _ => false

/-- The state elements S1 to S7 and S10 (10_state R21); S8 and S9 are written by every command. -/
inductive Element where
  | gainPulses
  | capacity
  | count
  | writeIndex
  | sorted
  | buf
  | ord
  | sortSwaps
  deriving DecidableEq, Repr

/-- The column "written by" of 10_state R21: the elements a command may write. -/
def elementsWritten : Instr → List Element
  | .begin => []
  | .setGain _ => [.gainPulses]
  | .isReady => []
  | .read _ => []
  | .powerDown => []
  | .powerUp => []
  | .filterConfigure _ => [.capacity, .count, .writeIndex, .sorted, .ord]
  | .filterClear => [.count, .writeIndex, .sorted, .ord]
  | .filterAdd _ => [.count, .writeIndex, .sorted, .buf]
  | .filterGetMedian => [.sorted, .ord, .sortSwaps]
  | .readMedian _ => [.capacity, .count, .writeIndex, .sorted, .buf, .ord, .sortSwaps]

/-- The element has the same value in both states. -/
def Element.same (e : Element) (s t : State) : Prop :=
  match e with
  | .gainPulses => t.gainPulses = s.gainPulses
  | .capacity => t.capacity = s.capacity
  | .count => t.count = s.count
  | .writeIndex => t.writeIndex = s.writeIndex
  | .sorted => t.sorted = s.sorted
  | .buf => t.buf = s.buf
  | .ord => t.ord = s.ord
  | .sortSwaps => t.sortSwaps = s.sortSwaps

/-- The start clock value of reading `k` of a run of readings that each find LOW at once: six answers a
reading. -/
def State.startOf (s : State) (k : Nat) : Word :=
  s.clockAt (2 * k) (6 * k)

/-- The clock value of the one iteration of reading `k` of such a run. -/
def State.clockOf (s : State) (k : Nat) : Word :=
  s.clockAt (2 * k + 1) (6 * k + 1)

/-- The sample of the one iteration of reading `k` of such a run. -/
def State.levelOf (s : State) (k : Nat) : Level :=
  s.levelAt k (6 * k + 2)

/-- The byte `j` (0, 1, 2 for b2, b1, b0) of reading `k` of such a run. -/
def State.byteOf (s : State) (k j : Nat) : Byte :=
  s.byteAt (3 * k + j) (6 * k + 3 + j)

/-- Reading `k` of such a run finds LOW in its first iteration, before its deadline. -/
def State.ReadyAtOnce (s : State) (k : Nat) : Prop :=
  (s.clockOf k - s.startOf k).toNat < 1000 ∧ s.levelOf k = .low

/-- The values of the first `n` readings of such a run, in order. -/
def State.readings (s : State) (n : Nat) : List Word :=
  (List.range n).map fun k => assemble (s.byteOf k 0) (s.byteOf k 1) (s.byteOf k 2)

/-- ORD after a clear at capacity `c`: the identity on `0..c-1`, and the entries above as they were (41_filter R143,
10_state R22). -/
def State.identityOrd (s : State) (c : Nat) : List Nat :=
  List.range c ++ s.ord.drop c

/-- The events of the first `n` readings of such a run, in order. -/
def State.readingsEvents (s : State) (n : Nat) : List Event :=
  (List.range n).flatMap fun k =>
    .now (s.startOf k) ::
      lowEvents s.params.dataPin s.params.clockPin s.gainPulses.toNat (s.clockOf k) (s.byteOf k 0)
        (s.byteOf k 1) (s.byteOf k 2)

/-- What READ_MEDIAN has made of the engine after `n` readings that each found LOW at once, before
anything else (42_composite R180, R182, R183): the fresh filter with the last readings in it, and
everything that no reading writes as in `s`, the entries of BUF that no reading filled among it. SORTED,
SORT_SWAPS and ORD are for each statement to say, because the median step writes them. -/
structure State.AfterReadings (s : State) (c n : Nat) (t : State) : Prop where
  params : t.params = s.params
  gainPulses : t.gainPulses = s.gainPulses
  program : t.program = s.program
  cp : t.cp = s.cp
  capacity : t.capacity = c
  count : t.count = min n c
  writeIndex : t.writeIndex = n % c
  window : t.window = lastOf c (s.readings n)
  buf_above : t.buf.drop (min n c) = s.buf.drop (min n c)

end Sys2Proof.Machine
end

