-- ==== Sys2Proof/Certificates/Slice0/Obligations.lean ====
section
/-!
DEFINITION. The statements for the provers. Each docstring says which sentence of the spec it formalises.
"Every state" means every value of the fields, so every parameters of 00_scope R6, every answer the host can
give (queued or free), every program.
-/

open Sys2Proof Sys2Proof.Machine

/-! ## Encoding (30_encoding) -/

/-- Decoding the word of a command gives the command, at every operand (R80, R82). -/
def Obligations.DecodeOfEncode : Prop :=
  ∀ i : Instr, decode (encode i) = .ok i

/-- Encoding what a word decodes to gives the word back, its ARG cleared where R85 ignores it (R80, R85,
R87: a command without operand is written with ARG = 0). -/
def Obligations.EncodeOfDecode : Prop :=
  ∀ (w : CommandWord) (i : Instr), decode w = .ok i →
    encode i = opField w ++ (if i.operandKind = .none then 0 else argField w)

/-- The encoded examples of 30_encoding section 5, which the spec derives from R80, R82, R87: each written
command assembles to its word, and the word decodes to the command. -/
def Obligations.SpecWordsDecode : Prop :=
  (assembleLine "BEGIN".toList = .ok (some 0x0100000000) ∧ decode 0x0100000000 = .ok .begin) ∧
  (assembleLine "SET_GAIN 64".toList = .ok (some 0x0200000040) ∧
    decode 0x0200000040 = .ok (.setGain 64)) ∧
  (assembleLine "SET_GAIN B32".toList = .ok (some 0x0200000020) ∧
    decode 0x0200000020 = .ok (.setGain 32)) ∧
  (assembleLine "IS_READY".toList = .ok (some 0x0300000000) ∧ decode 0x0300000000 = .ok .isReady) ∧
  (assembleLine "READ".toList = .ok (some 0x04000003E8) ∧ decode 0x04000003E8 = .ok (.read 1000)) ∧
  (assembleLine "READ 0".toList = .ok (some 0x0400000000) ∧ decode 0x0400000000 = .ok (.read 0)) ∧
  (assembleLine "POWER_DOWN".toList = .ok (some 0x0500000000) ∧
    decode 0x0500000000 = .ok .powerDown) ∧
  (assembleLine "POWER_UP".toList = .ok (some 0x0600000000) ∧ decode 0x0600000000 = .ok .powerUp) ∧
  (assembleLine "FILTER_CONFIGURE 5".toList = .ok (some 0x1000000005) ∧
    decode 0x1000000005 = .ok (.filterConfigure 5)) ∧
  (assembleLine "FILTER_CONFIGURE -1".toList = .ok (some 0x10FFFFFFFF) ∧
    decode 0x10FFFFFFFF = .ok (.filterConfigure (-1))) ∧
  (assembleLine "FILTER_CLEAR".toList = .ok (some 0x1100000000) ∧
    decode 0x1100000000 = .ok .filterClear) ∧
  (assembleLine "FILTER_ADD -3".toList = .ok (some 0x12FFFFFFFD) ∧
    decode 0x12FFFFFFFD = .ok (.filterAdd (-3))) ∧
  (assembleLine "FILTER_ADD 8388607".toList = .ok (some 0x12007FFFFF) ∧
    decode 0x12007FFFFF = .ok (.filterAdd 8388607)) ∧
  (assembleLine "FILTER_GET_MEDIAN".toList = .ok (some 0x1300000000) ∧
    decode 0x1300000000 = .ok .filterGetMedian) ∧
  (assembleLine "READ_MEDIAN".toList = .ok (some 0x200000000A) ∧
    decode 0x200000000A = .ok (.readMedian 10))

/-- The opcode map (R82, columns OP, mnemonic, operand decoding): for every ARG. -/
def Obligations.OpcodeMap : Prop :=
  ∀ arg : Word,
    decode (0x01#8 ++ arg) = .ok .begin ∧
    decode (0x02#8 ++ arg) = .ok (.setGain arg) ∧
    decode (0x03#8 ++ arg) = .ok .isReady ∧
    decode (0x04#8 ++ arg) = .ok (.read arg) ∧
    decode (0x05#8 ++ arg) = .ok .powerDown ∧
    decode (0x06#8 ++ arg) = .ok .powerUp ∧
    decode (0x10#8 ++ arg) = .ok (.filterConfigure arg) ∧
    decode (0x11#8 ++ arg) = .ok .filterClear ∧
    decode (0x12#8 ++ arg) = .ok (.filterAdd arg) ∧
    decode (0x13#8 ++ arg) = .ok .filterGetMedian ∧
    decode (0x20#8 ++ arg) = .ok (.readMedian arg)

/-- R84, R204: an OP in 0x00, 0x07 to 0x0F, 0x14 to 0x1F, 0x21 to 0xFF (245 values) is illegal, every other
is not; the step on an illegal word changes STATUS and RESULT alone, makes no host call, and completes (its
completion event and the command position, R24, R59, are the step's own). -/
def Obligations.IllegalWordsFinish : Prop :=
  (∀ (op : BitVec 8) (arg : Word),
    (∃ e, decode (op ++ arg) = .error e) ↔
      (op.toNat = 0 ∨ (7 ≤ op.toNat ∧ op.toNat ≤ 0x0F) ∨ (0x14 ≤ op.toNat ∧ op.toNat ≤ 0x1F) ∨
        0x21 ≤ op.toNat)) ∧
  ((List.range 256).countP (fun op => decide
      (op = 0 ∨ (7 ≤ op ∧ op ≤ 0x0F) ∨ (0x14 ≤ op ∧ op ≤ 0x1F) ∨ 0x21 ≤ op)) = 245) ∧
  (∀ (s : State) (w : CommandWord) (e : DecodeError), s.params.wellFormed = true → s.wait = none →
    s.fetch = some w → decode w = .error e →
    step s = .next { s with
      status := .illegalCommand
      result := 0
      cp := s.cp + 1
      history := s.history ++ [.command w .illegalCommand 0] })

/-- R85: for BEGIN, IS_READY, POWER_DOWN, POWER_UP, FILTER_CLEAR and FILTER_GET_MEDIAN any ARG decodes to the
one command, so it gives the same behaviour and none is refused. -/
def Obligations.IgnoredOperandBits : Prop :=
  ∀ op ∈ [0x01#8, 0x03#8, 0x05#8, 0x06#8, 0x11#8, 0x13#8],
    ∃ i : Instr, i.operandKind = .none ∧ ∀ arg : Word, decode (op ++ arg) = .ok i

/-! ## The step and the command port (00_scope R7, R12; 10_state R24; 20_memory R59, R62) -/

/-- When the word at the command position decodes to a command and no wait stands, the step is the
command's meaning; if that left no wait (the cut at `Yield()` is log entry 4), the command has finished: its
completion event is recorded and the position advances by 1. -/
def Obligations.StepRunsCommand : Prop :=
  ∀ (s : State) (w : CommandWord) (i : Instr), s.params.wellFormed = true → s.wait = none →
    s.fetch = some w → decode w = .ok i →
    step s =
      match exec i s with
      | .next t =>
        .next (match t.wait with
          | none => { t with
              cp := t.cp + 1
              history := t.history ++ [.command w t.status t.result] }
          | some _ => t)
      | .fault f => .fault f
      | .refused r => .refused r

/-- While a wait stands the step makes the wait's next iteration (the cut at `Yield()` is log entry 4), whatever
word is presented: no other command runs (R62), and the command finishes as any other. -/
def Obligations.StepContinuesWait : Prop :=
  ∀ (s : State) (w : CommandWord) (wait : Wait), s.params.wellFormed = true → s.wait = some wait →
    s.fetch = some w →
    step s =
      match resume wait s with
      | .next t =>
        .next (match t.wait with
          | none => { t with
              cp := t.cp + 1
              history := t.history ++ [.command w t.status t.result] }
          | some _ => t)
      | .fault f => .fault f
      | .refused r => .refused r

/-- With no word presented the engine waits for the host, and a step changes nothing (70_reset_and_hazards
R232; that the waiting is a step that changes nothing is the model's choice, log entry 3). -/
def Obligations.NoCommandNoChange : Prop :=
  ∀ s : State, s.params.wellFormed = true → s.program.length ≤ s.cp → step s = .next s

/-- R7 with the constraints of R6: a configuration that breaks one, and no other, is refused before any step.
R7 names two of the four constraints; that all four are checked, and that a step answers a refusal where R218
lists a fault, is the model's choice (log entry 10). -/
def Obligations.IllFormedConfigurationRefused : Prop :=
  ∀ s : State,
    (s.params.minSize < 1 ∨ s.params.maxSize < s.params.minSize ∨ 2147483647 < s.params.maxSize ∨
      s.params.dataPin = s.params.clockPin) ↔
    step s = .refused .illFormedConfiguration

/-- R24: the position is an index into the host's list, which no command writes; it advances by exactly 1
when the command finishes, whatever its status, with the one completion event of R59 at the end. That it stays
while the command waits rests on log entry 4, and that past the last word nothing changes on log entry 3: both
are the model's choice. -/
def Obligations.PositionAdvancesByOne : Prop :=
  ∀ s t : State, step s = .next t →
    t.program = s.program ∧
    match s.program[s.cp]? with
    | none => t = s
    | some w =>
      (t.wait = none → t.cp = s.cp + 1 ∧
        ∃ es, t.history = s.history ++ es ++ [.command w t.status t.result] ∧ completions es = []) ∧
      (t.wait ≠ none → t.cp = s.cp ∧ ∃ es, t.history = s.history ++ es ∧ completions es = [])

/-- The history only grows (R59, R64), it records every answer the host gave and no other, in the order
asked: the queues of the host lose exactly the answers recorded, those are the queued ones as long as there
are any, and every answer counts as one draw. The queues and the count of draws are the model's own fields
and its choice (log entry 5). -/
def Obligations.HistoryRecordsAnswers : Prop :=
  ∀ s t : State, step s = .next t →
    ∃ es, t.history = s.history ++ es ∧
      t.clockIn = s.clockIn.drop (nowAnswers es).length ∧
      t.levelIn = s.levelIn.drop (levelAnswers es).length ∧
      t.byteIn = s.byteIn.drop (byteAnswers es).length ∧
      t.drawn = s.drawn + (nowAnswers es).length + (levelAnswers es).length + (byteAnswers es).length ∧
      (∀ (k : Nat) (a q : Word), (nowAnswers es)[k]? = some a → s.clockIn[k]? = some q → a = q) ∧
      (∀ (k : Nat) (a q : Level), (levelAnswers es)[k]? = some a → s.levelIn[k]? = some q → a = q) ∧
      (∀ (k : Nat) (a q : Byte), (byteAnswers es)[k]? = some a → s.byteIn[k]? = some q → a = q)

/-! ## Reader commands (40_reader) -/

/-- R104: BEGIN sets the clock pin to output, then the data pin to input, and writes STATUS and RESULT;
nothing else changes. With distinct pins these are then the modes last set. -/
def Obligations.BeginSetsPinModes : Prop :=
  ∀ s : State,
    exec .begin s = .next { s with
      history := s.history ++
        [.pinMode s.params.clockPin .output, .pinMode s.params.dataPin .input]
      status := .ok
      result := 0 } ∧
    (s.params.dataPin ≠ s.params.clockPin → ∀ t, exec .begin s = .next t →
      lastPinMode s.params.clockPin t.history = some .output ∧
        lastPinMode s.params.dataPin t.history = some .input)

/-- R101, R105, R83: SET_GAIN writes the pulse count of its whole code (128 gives 1, 64 gives 3, 32 gives 2,
any other 1), STATUS and RESULT; no event, nothing else changes. -/
def Obligations.SetGainWritesPulses : Prop :=
  ∀ (code : Word) (s : State), exec (.setGain code) s = .next { s with
    gainPulses := if code = 128 then 1 else if code = 64 then 3 else if code = 32 then 2 else 1
    status := .ok
    result := 0 }

/-- R106: IS_READY takes one sample and gives 1 for LOW and 0 for HIGH; nothing else changes. -/
def Obligations.IsReadySamplesOnce : Prop :=
  ∀ s : State, exec .isReady s = .next { s with
    levelIn := s.levelIn.drop 1
    drawn := s.drawn + 1
    history := s.history ++ [.pinRead s.params.dataPin (s.levelAt 0 0)]
    status := .ok
    result := match s.levelAt 0 0 with
      | .low => 1
      | .high => 0 }

/-- R115: POWER_DOWN writes LOW then HIGH to the clock and leaves it HIGH; nothing else changes. -/
def Obligations.PowerDownLeavesClockHigh : Prop :=
  ∀ s : State,
    exec .powerDown s = .next { s with
      history := s.history ++
        [.pinWrite s.params.clockPin .low, .pinWrite s.params.clockPin .high]
      status := .ok
      result := 0 } ∧
    ∀ t, exec .powerDown s = .next t → lastClockLevel s.params.clockPin t.history = some .high

/-- R116: POWER_UP writes LOW to the clock; nothing else changes. -/
def Obligations.PowerUpLeavesClockLow : Prop :=
  ∀ s : State,
    exec .powerUp s = .next { s with
      history := s.history ++ [.pinWrite s.params.clockPin .low]
      status := .ok
      result := 0 } ∧
    ∀ t, exec .powerUp s = .next t → lastClockLevel s.params.clockPin t.history = some .low

/-- R110, R111, R112: a READ whose first sample is LOW before the deadline shifts in b2, b1, b0 with nothing
between, then sends exactly GAIN_PULSES pulses, and gives the sign-extended reading; nothing else changes.
This is where READ completes in one step. -/
def Obligations.ReadCompletesAtOnce : Prop :=
  ∀ (timeout : Word) (s : State),
    (s.clockAt 1 1 - s.clockAt 0 0).toNat < timeout.toNat → s.levelAt 0 2 = .low →
    exec (.read timeout) s = .next { s with
      clockIn := s.clockIn.drop 2
      levelIn := s.levelIn.drop 1
      byteIn := s.byteIn.drop 3
      drawn := s.drawn + 6
      history := s.history ++
        [.now (s.clockAt 0 0), .now (s.clockAt 1 1), .pinRead s.params.dataPin .low,
          .shiftInByte s.params.dataPin s.params.clockPin (s.byteAt 0 3),
          .shiftInByte s.params.dataPin s.params.clockPin (s.byteAt 1 4),
          .shiftInByte s.params.dataPin s.params.clockPin (s.byteAt 2 5)] ++
        (List.replicate s.gainPulses.toNat
          [Event.pinWrite s.params.clockPin .high, Event.pinWrite s.params.clockPin .low]).flatten
      status := .ok
      result := (if (s.byteAt 0 3).getLsbD 7 then 0xFF#8 else 0x00#8) ++ s.byteAt 0 3 ++ s.byteAt 1 4 ++
        s.byteAt 2 5 }

/-- A READ whose first deadline check fires ends with TIMED_OUT and RESULT 0 after two clock reads, with no
sample, no byte and no pulse (R109; with `timeout = 0` always); nothing else changes. -/
def Obligations.ReadTimesOutAtOnce : Prop :=
  ∀ (timeout : Word) (s : State),
    timeout.toNat ≤ (s.clockAt 1 1 - s.clockAt 0 0).toNat →
    exec (.read timeout) s = .next { s with
      clockIn := s.clockIn.drop 2
      drawn := s.drawn + 2
      history := s.history ++ [.now (s.clockAt 0 0), .now (s.clockAt 1 1)]
      status := .timedOut
      result := 0 }

/-- A READ whose first sample is HIGH before the deadline yields and waits (R108; the wait in the state is log
entry 4, its patience log entry 11); nothing but the host's answers, the history and the wait changes. -/
def Obligations.ReadYieldsOnHigh : Prop :=
  ∀ (timeout : Word) (s : State),
    (s.clockAt 1 1 - s.clockAt 0 0).toNat < timeout.toNat → s.levelAt 0 2 = .high →
    exec (.read timeout) s = .next { s with
      clockIn := s.clockIn.drop 2
      levelIn := s.levelIn.drop 1
      drawn := s.drawn + 3
      history := s.history ++
        [.now (s.clockAt 0 0), .now (s.clockAt 1 1), .pinRead s.params.dataPin .high, .yield]
      wait := some { start := s.clockAt 0 0, task := .read timeout, patience := s.patienceAt 0 } }

/-- One iteration of a READ that waits (R107, R108, R109), as a step, by how it ends: past the deadline
TIMED_OUT after the one clock read; LOW completes; HIGH yields again, with the same start clock value and one
iteration less of patience (log entries 4 and 11). -/
def Obligations.ReadWaitIteration : Prop :=
  ∀ (s : State) (w : CommandWord) (start timeout : Word) (p : Nat), s.params.wellFormed = true →
    s.fetch = some w → s.wait = some { start := start, task := .read timeout, patience := p } →
    (timeout.toNat ≤ (s.pollAnswer start timeout p - start).toNat →
      step s = .next { s with
        clockIn := s.clockIn.drop 1
        drawn := s.drawn + 1
        history := s.history ++ [.now (s.pollAnswer start timeout p), .command w .timedOut 0]
        status := .timedOut
        result := 0
        wait := none
        cp := s.cp + 1 }) ∧
    ((s.pollAnswer start timeout p - start).toNat < timeout.toNat → s.levelAt 0 1 = .high →
      step s = .next { s with
        clockIn := s.clockIn.drop 1
        levelIn := s.levelIn.drop 1
        drawn := s.drawn + 2
        history := s.history ++ highEvents s.params.dataPin (s.pollAnswer start timeout p)
        wait := some { start := start, task := .read timeout, patience := p - 1 } }) ∧
    ((s.pollAnswer start timeout p - start).toNat < timeout.toNat → s.levelAt 0 1 = .low →
      step s = .next { s with
        clockIn := s.clockIn.drop 1
        levelIn := s.levelIn.drop 1
        byteIn := s.byteIn.drop 3
        drawn := s.drawn + 5
        history := s.history ++
          lowEvents s.params.dataPin s.params.clockPin s.gainPulses.toNat
            (s.pollAnswer start timeout p) (s.byteAt 0 2) (s.byteAt 1 3) (s.byteAt 2 4) ++
          [.command w .ok (assemble (s.byteAt 0 2) (s.byteAt 1 3) (s.byteAt 2 4))]
        status := .ok
        result := assemble (s.byteAt 0 2) (s.byteAt 1 3) (s.byteAt 2 4)
        wait := none
        cp := s.cp + 1 })

/-- READ from its start to its end (R107, R108, R109, R110, R111, R112), for every number of HIGH samples and
every clock, in as many steps as there are iterations (the cut into steps is log entry 4). With `n` HIGH samples
the events give the counts of R114, which the spec derives: n + 2 clock reads, n + 1 samples (n on a timeout), n
yields, 3 bytes and 2 × GAIN_PULSES clock writes (none on a timeout). -/
def Obligations.ReadRun : Prop :=
  ∀ (s : State) (w : CommandWord) (timeout : Word) (cs : List Word) (ls : List Level),
    s.params.wellFormed = true → s.wait = none → s.fetch = some w → decode w = .ok (.read timeout) →
    (∀ (r : Reading) (bs : List Byte), r.inTime timeout →
      s.clockIn = r.clocks ++ cs → s.levelIn = r.levels ++ ls → s.byteIn = r.bytes ++ bs →
      Host.Core.run core (r.highs.length + 1) s = .next { s with
        clockIn := cs
        levelIn := ls
        byteIn := bs
        drawn := s.drawn + r.answers
        history := s.history ++ r.events s.params.dataPin s.params.clockPin s.gainPulses.toNat ++
          [.command w .ok r.value]
        status := .ok
        result := r.value
        cp := s.cp + 1 }) ∧
    (∀ (start last : Word) (highs : List Word),
      (∀ t ∈ highs, (t - start).toNat < timeout.toNat) → timeout.toNat ≤ (last - start).toNat →
      s.clockIn = start :: highs ++ last :: cs →
      s.levelIn = List.replicate highs.length .high ++ ls →
      Host.Core.run core (highs.length + 1) s = .next { s with
        clockIn := cs
        levelIn := ls
        drawn := s.drawn + 2 * highs.length + 2
        history := s.history ++ .now start :: highs.flatMap (highEvents s.params.dataPin) ++
          [.now last, .command w .timedOut 0]
        status := .timedOut
        result := 0
        cp := s.cp + 1 })

/-- A READ ends if the host keeps its duty of R61: if one of the clock answers after the start, number `n`
from 0, is at or past the deadline, the command has finished after at most `n + 1` steps, whatever the
samples. A step is an iteration of the wait: the cut at `Yield()` is the model's (log entry 4). -/
def Obligations.ReadEndsUnderFairClock : Prop :=
  ∀ (s : State) (w : CommandWord) (timeout start : Word) (ts : List Word) (n : Nat) (late : Word),
    s.params.wellFormed = true → s.wait = none → s.fetch = some w → decode w = .ok (.read timeout) →
    s.clockIn = start :: ts → ts[n]? = some late → timeout.toNat ≤ (late - start).toNat →
    ∃ k t, k ≤ n + 1 ∧ Host.Core.run core k s = .next t ∧ t.wait = none ∧ t.cp = s.cp + 1

/-- A reading of READ_MEDIAN ends if the host keeps its duty of R61: if the clock answer number `n` from 0, from
an iteration of its wait on, is at or past its deadline, then after at most `n + 1` steps READ_MEDIAN has
finished or waits for a later reading, whatever the samples. A step is an iteration: the cut at `Yield()` is
the model's (log entry 4). -/
def Obligations.MedianReadingEndsUnderFairClock : Prop :=
  ∀ (s : State) (w : CommandWord) (start : Word) (left p n : Nat) (late : Word), s.Inv →
    s.fetch = some w → s.wait = some { start := start, task := .median left, patience := p } →
    s.clockIn[n]? = some late → 1000 ≤ (late - start).toNat →
    ∃ k t, k ≤ n + 1 ∧ Host.Core.run core k s = .next t ∧
      ((t.wait = none ∧ t.cp = s.cp + 1) ∨
        ∃ start' left' p', t.wait = some { start := start', task := .median left', patience := p' } ∧
          left' < left)

/-- The host's duty of R61 and R63 in the model (log entry 11): inside a ready wait the clock answer is any
value at all while answers are queued or patience is left; then it is at or past the deadline, and every
value that is at or past the deadline is one that a free answer gives. -/
def Obligations.HostClockDuty : Prop :=
  (∀ (start timeout : Word) (p : Nat) (s : State), s.clockIn ≠ [] ∨ 0 < p →
    s.pollAnswer start timeout p = s.clockAt 0 0) ∧
  (∀ (start timeout : Word) (s : State), s.clockIn = [] →
    timeout.toNat ≤ (s.pollAnswer start timeout 0 - start).toNat) ∧
  (∀ start timeout t : Word,
    timeout.toNat ≤ (t - start).toNat ↔ ∃ v, lateClock start timeout v = t)

/-- No run hangs (R218, by the host's duties of R61 and R62, which hold in the model by log entry 11): from every
state with the invariant and a word presented, the command there finishes after finitely many steps, its
readings and their waits included; and a READ that waits finishes after at most one step more than the
longer of its patience and the queue of clock answers. -/
def Obligations.EveryCommandEnds : Prop :=
  (∀ (s : State) (w : CommandWord), s.Inv → s.fetch = some w →
    ∃ k t, Host.Core.run core k s = .next t ∧ t.wait = none ∧ t.cp = s.cp + 1) ∧
  (∀ (s : State) (w : CommandWord) (start timeout : Word) (p : Nat), s.params.wellFormed = true →
    s.fetch = some w → s.wait = some { start := start, task := .read timeout, patience := p } →
    ∃ k t, k ≤ max p s.clockIn.length + 1 ∧ Host.Core.run core k s = .next t ∧ t.wait = none ∧
      t.cp = s.cp + 1)

/-- R112: the assembled reading is the 24-bit two's-complement value of the three bytes, in
`-8388608..8388607`; bit 7 of b2 alone decides the upper byte. -/
def Obligations.AssembleSignExtends : Prop :=
  ∀ b2 b1 b0 : Byte,
    assemble b2 b1 b0 = (if b2.getLsbD 7 then 0xFF#8 else 0x00#8) ++ b2 ++ b1 ++ b0 ∧
    (assemble b2 b1 b0).toInt =
      (if b2.toNat < 128 then 0 else -16777216) +
        (b2.toNat * 65536 + b1.toNat * 256 + b0.toNat : Nat) ∧
    -8388608 ≤ (assemble b2 b1 b0).toInt ∧ (assemble b2 b1 b0).toInt ≤ 8388607

/-- R113: every RESULT of a successful READ has its top 8 bits all 1 if bit 23 is 1 and all 0 otherwise. -/
def Obligations.ReadResultIsRawReading : Prop :=
  ∀ (s t : State) (w : CommandWord) (timeout : Word), s.WaitMatches → s.fetch = some w →
    decode w = .ok (.read timeout) → step s = .next t → t.wait = none → t.status = .ok →
    t.result.extractLsb' 24 8 = (if t.result.getLsbD 23 then 0xFF#8 else 0x00#8)

/-- On the wire (20_memory R53, R60; 40_reader R103, R110, R111), for a READ at its first sample or after any
number of yields: the step that completes it drives 24 + GAIN_PULSES clock pulses (25 to 27 for the legal
counts, which the spec derives in R111), leaves the clock LOW, and samples the bits of b2, b1, b0, whose
reading is RESULT, from bit 7 to bit 0 each; a step in which it yields or times out writes no clock level. The
expansion of a byte into bits is the spec's general knowledge (log entry 8), the cut into steps log entry 4. -/
def Obligations.ReadWirePulses : Prop :=
  ∀ (s t : State) (w : CommandWord) (timeout : Word), s.WaitMatches → s.fetch = some w →
    decode w = .ok (.read timeout) → step s = .next t →
    ∃ es, t.history = s.history ++ es ∧
      (t.wait = none → t.status = .ok →
        clockPulses s.params.clockPin es = 24 + s.gainPulses.toNat ∧
        lastClockLevel s.params.clockPin t.history = some .low ∧
        ∃ b2 b1 b0, byteAnswers es = [b2, b1, b0] ∧ t.result = assemble b2 b1 b0 ∧
          dataBits es =
            [b2, b1, b0].flatMap (fun b => [7, 6, 5, 4, 3, 2, 1, 0].map fun k => b.getLsbD k)) ∧
      (t.wait ≠ none ∨ t.status ≠ .ok → clockLevels s.params.clockPin es = [])

/-- The gain pipeline (R102; the spec derives it in 70_reset_and_hazards R240), in the view of the chip that the
history gives (`nextSetting`, log entry 14: DEDUCED, for no rule lets the engine track the chip), once BEGIN has
been issued and while the chip is powered up (R234): the step that completes a READ, at its first sample or after
any number of yields, or a READ_MEDIAN, with 1, 2 or 3 pulses selects channel A gain 128, channel B gain 32
or channel A gain 64 for the next conversion; a READ that yields or times out selects nothing, and neither does
IS_READY, nor, before BEGIN too, does SET_GAIN or any other command but READ_MEDIAN, POWER_DOWN and POWER_UP, so
the conversion read next was made under the earlier selection. Before BEGIN, R236: CommandsBeforeBegin. -/
def Obligations.GainPipeline : Prop :=
  (∀ (s t : State) (w : CommandWord) (i : Instr), s.WaitMatches → s.fetch = some w →
    decode w = .ok i → ((∃ timeout, i = .read timeout) ∨ ∃ times, i = .readMedian times) →
    step s = .next t → t.wait = none → t.status = .ok →
    (chipView s.params.clockPin s.history).ready = true →
    (s.gainPulses = 1 → nextSetting s.params.clockPin t.history = some .a128) ∧
    (s.gainPulses = 2 → nextSetting s.params.clockPin t.history = some .b32) ∧
    (s.gainPulses = 3 → nextSetting s.params.clockPin t.history = some .a64)) ∧
  (∀ (s t : State) (w : CommandWord) (timeout : Word), s.WaitMatches → s.fetch = some w →
    decode w = .ok (.read timeout) → step s = .next t → t.wait ≠ none ∨ t.status = .timedOut →
    (chipView s.params.clockPin s.history).begun = true →
    nextSetting s.params.clockPin t.history = nextSetting s.params.clockPin s.history) ∧
  (∀ (s t : State) (w : CommandWord) (i : Instr), s.WaitMatches → s.fetch = some w →
    decode w = .ok i → drivesClock i = false → step s = .next t →
    (chipView s.params.clockPin s.history).begun = true ∨ i ≠ .isReady →
    nextSetting s.params.clockPin t.history = nextSetting s.params.clockPin s.history)

/-- The first conversion (R235, R116, R242, in the view of log entry 14; channel A, gain 128 after a power-up, and
that a clock left HIGH powers the chip down, are the spec's general knowledge: PRESUMED): at construction the
conversion read next is of channel A, gain 128, whatever GAIN_PULSES holds; BEGIN makes the pin rules hold; then
POWER_DOWN powers the chip down, and POWER_UP powers it up to channel A, gain 128, whatever was selected
before and whatever GAIN_PULSES holds. -/
def Obligations.FirstConversionIsA128 : Prop :=
  (∀ p : Params, nextSetting p.clockPin (State.construct p).history = some .a128) ∧
  (∀ s t : State, s.params.dataPin ≠ s.params.clockPin →
    (chipView s.params.clockPin s.history).power = .up → exec .begin s = .next t →
    (chipView s.params.clockPin t.history).ready = true) ∧
  (∀ (s : State) (w : CommandWord), s.params.wellFormed = true → s.wait = none → s.fetch = some w →
    (chipView s.params.clockPin s.history).begun = true →
    (decode w = .ok .powerDown →
      ∃ t, step s = .next t ∧ (chipView s.params.clockPin t.history).power = .down ∧
        (chipView s.params.clockPin t.history).begun = true) ∧
    (decode w = .ok .powerUp → (chipView s.params.clockPin s.history).power = .down →
      ∃ t, step s = .next t ∧ (chipView s.params.clockPin t.history).ready = true ∧
        nextSetting s.params.clockPin t.history = some .a128))

/-- Commands before BEGIN (R236, with the commands that R234 says need BEGIN): they make their host calls in full
and no rule of the engine changes, for a step does the same after any history, BEGIN in it or not; and after such
a command's step before BEGIN a claim about the chip has no ground: the view of log entry 14 gives neither its
power nor its setting. -/
def Obligations.CommandsBeforeBegin : Prop :=
  (∀ s t : State, step s = .next t →
    ∃ es, t.history = s.history ++ es ∧
      ∀ h, step { s with history := h } = .next { t with history := h ++ es }) ∧
  (∀ (s t : State) (w : CommandWord) (i : Instr), s.WaitMatches → s.fetch = some w →
    decode w = .ok i → needsBegin i = true → step s = .next t →
    (chipView s.params.clockPin s.history).begun = false →
    (chipView s.params.clockPin t.history).power = .unknown ∧
      nextSetting s.params.clockPin t.history = none)

/-- R100: no reader command reads or writes filter state (S2 to S7, S10): with any other filter state it does
the same and leaves that state; and only SET_GAIN writes S1. The wait of a READ included. -/
def Obligations.ReaderLeavesFilterAlone : Prop :=
  (∀ (i : Instr) (f s t : State), readerCommand i = true → exec i s = .next t →
    exec i (State.withFilter f s) = .next (State.withFilter f t) ∧
      ((∀ code, i ≠ .setGain code) → t.gainPulses = s.gainPulses)) ∧
  (∀ (start timeout : Word) (p : Nat) (f s t : State),
    resume { start := start, task := .read timeout, patience := p } s = .next t →
    resume { start := start, task := .read timeout, patience := p } (State.withFilter f s) =
      .next (State.withFilter f t) ∧ t.gainPulses = s.gainPulses)

/-! ## Filter commands (41_filter) -/

/-- R140: no filter command makes a host primitive call (the history, the host's answers and the wait are as
before) and none reads or writes GAIN_PULSES. -/
def Obligations.FilterMakesNoHostCall : Prop :=
  ∀ (i : Instr) (s t : State), filterCommand i = true → exec i s = .next t →
    t.history = s.history ∧ t.clockIn = s.clockIn ∧ t.levelIn = s.levelIn ∧ t.byteIn = s.byteIn ∧
    t.drawn = s.drawn ∧ t.wait = s.wait ∧ t.params = s.params ∧ t.program = s.program ∧ t.cp = s.cp ∧
    ∀ g : BitVec 2, exec i { s with gainPulses := g } = .next { t with gainPulses := g }

/-- R141, R142, R143: FILTER_CONFIGURE clamps its signed request to `[MIN_SIZE, MAX_SIZE]`, empties the filter,
writes the identity to `ORD[0..CAPACITY-1]` and no entry above, and gives the capacity taken; BUF and
everything else stay. -/
def Obligations.FilterConfigureClampsAndClears : Prop :=
  ∀ (req : Word) (s : State) (c : Nat), s.params.wellFormed = true →
    s.ord.length = s.params.maxSize →
    c = (if req.toInt < s.params.minSize then s.params.minSize
      else if s.params.maxSize < req.toInt then s.params.maxSize
      else req.toInt.toNat) →
    exec (.filterConfigure req) s = .next { s with
      capacity := c
      count := 0
      writeIndex := 0
      sorted := false
      ord := List.range c ++ s.ord.drop c
      status := .ok
      result := BitVec.ofNat 32 c } ∧
    (BitVec.ofNat 32 c).toInt = c

/-- R143, R144: FILTER_CLEAR empties the filter and writes the identity to `ORD[0..CAPACITY-1]`; CAPACITY, BUF,
SORT_SWAPS and everything else stay. -/
def Obligations.FilterClearEmpties : Prop :=
  ∀ s : State, s.capacity ≤ s.ord.length →
    exec .filterClear s = .next { s with
      count := 0
      writeIndex := 0
      sorted := false
      ord := List.range s.capacity ++ s.ord.drop s.capacity
      status := .ok
      result := 0 }

/-- R145, R146: FILTER_ADD writes the value, any 32-bit one, at WRITE_INDEX, advances it modulo CAPACITY,
counts up to CAPACITY, and clears SORTED always; ORD and everything else stay. -/
def Obligations.FilterAddWritesRing : Prop :=
  ∀ (v : Word) (s : State), s.writeIndex < s.capacity → s.writeIndex < s.buf.length →
    exec (.filterAdd v) s = .next { s with
      buf := s.buf.set s.writeIndex v
      writeIndex := (s.writeIndex + 1) % s.capacity
      count := if s.count < s.capacity then s.count + 1 else s.count
      sorted := false
      status := .ok
      result := 0 }

/-- The ring's contents, which the spec derives from R146 in 41_filter section 4: after a clear and
`N + k` adds with CAPACITY = N, slot `j mod N` holds value `j` for each of the last N, COUNT = N and
WRITE_INDEX = k mod N. -/
def Obligations.RingHoldsLastValues : Prop :=
  ∀ (vs : List Word) (s : State), s.FilterInv → s.count = 0 → s.capacity ≤ vs.length →
    ∃ t, addAll vs s = .next t ∧ t.count = s.capacity ∧ t.capacity = s.capacity ∧
      t.writeIndex = (vs.length - s.capacity) % s.capacity ∧
      ∀ j v, vs.length - s.capacity ≤ j → vs[j]? = some v → t.buf[j % s.capacity]? = some v

/-- An add slides the window (R146; the spec derives what BUF holds in 10_state section 4): the values held,
oldest first, get the new one at the end and lose the oldest beyond CAPACITY. -/
def Obligations.AddSlidesWindow : Prop :=
  ∀ (v : Word) (s t : State), s.FilterInv → exec (.filterAdd v) s = .next t →
    t.window = lastOf s.capacity (s.window ++ [v]) ∧ t.window.length = t.count

/-- R202, R181: a median asked of an empty filter, and READ_MEDIAN with a count that is not positive, finish
with EMPTY_FILTER and RESULT 0 and change nothing else. -/
def Obligations.EmptyFilterRaised : Prop :=
  ∀ s : State,
    (s.count = 0 → exec .filterGetMedian s = .next { s with status := .emptyFilter, result := 0 }) ∧
    (∀ times : Word, times.toInt ≤ 0 →
      exec (.readMedian times) s = .next { s with status := .emptyFilter, result := 0 })

/-- FILTER_GET_MEDIAN on a filter that holds a value (R148, R149, R151, R152, R155; the spec derives the median
property in section 5): it gives the median of the values held and marks the filter sorted; ORD's prefix
is permuted into non-decreasing order of value and its rest stays; with SORTED = 1 no entry of ORD moves
and SORT_SWAPS is 0; everything else stays. -/
def Obligations.GetMedianOfHeld : Prop :=
  ∀ s : State, s.FilterInv → 0 < s.count →
    ∃ ord' swaps,
      exec .filterGetMedian s = .next { s with
        ord := ord'
        sorted := true
        sortSwaps := swaps
        status := .ok
        result := medianOf s.held } ∧
      (ord'.take s.count).Perm (s.ord.take s.count) ∧ ord'.drop s.count = s.ord.drop s.count ∧
      (∀ (k i j : Nat) (a b : Word), k + 1 < s.count → ord'[k]? = some i → ord'[k + 1]? = some j →
        s.buf[i]? = some a → s.buf[j]? = some b → a.toInt ≤ b.toInt) ∧
      (s.sorted = true → ord' = s.ord ∧ swaps = 0)

/-- Calling for the median twice without an add makes no exchange the second time (R149; the spec derives it
in section 5): the second call changes SORT_SWAPS to 0 and nothing else, RESULT the same. -/
def Obligations.SecondMedianIsIdle : Prop :=
  ∀ s t : State, s.FilterInv → 0 < s.count → exec .filterGetMedian s = .next t →
    exec .filterGetMedian t = .next { t with sortSwaps := 0 }

/-- The sort is stable and ascending (R150, R153): it starts from ORD as it stands and leaves its prefix as
insertion by value, equal values in their earlier order, does. -/
def Obligations.SortIsStableAscending : Prop :=
  ∀ s t : State, s.FilterInv → 0 < s.count → s.sorted = false → exec .filterGetMedian s = .next t →
    t.ord.take s.count = orderBy s.buf (s.ord.take s.count)

/-- The exchanges of a sort are the inversions it found (R150, R153), at most n(n-1)/2 of them. -/
def Obligations.SwapsAreInversions : Prop :=
  ∀ s t : State, s.FilterInv → 0 < s.count → s.sorted = false → exec .filterGetMedian s = .next t →
    t.sortSwaps = inversionsBy s.buf (s.ord.take s.count) ∧
      2 * t.sortSwaps ≤ s.count * (s.count - 1)

/-- R152: the average of two values is their exact sum divided by 2 with truncation toward zero, and always
fits the word. -/
def Obligations.AverageIsExact : Prop :=
  ∀ a b : Word, (average a b).toInt = (a.toInt + b.toInt).tdiv 2

/-! ## READ_MEDIAN (42_composite) -/

/-- READ_MEDIAN whose readings all find LOW at once completes in one step (that it is one step is log entry 4; R180,
R182, R183, and the derived count above capacity): a fresh filter of the clamped capacity holds the last
readings, BUF above them stays, the result is their median, SORTED = 1, ORD is the identity put in order of
value and untouched above CAPACITY (R143, R22), SORT_SWAPS is the number of inversions of the readings as BUF
holds them (R31), and the events are those of `times` whole readings. -/
def Obligations.ReadMedianCompletes : Prop :=
  ∀ (times : Word) (s : State) (n : Nat), s.Inv → times.toInt = n → 0 < n →
    (∀ k, k < n → s.ReadyAtOnce k) →
    ∃ t, exec (.readMedian times) s = .next t ∧
      s.AfterReadings (clamp s.params times) n t ∧
      t.status = .ok ∧ t.result = medianOf (lastOf (clamp s.params times) (s.readings n)) ∧
      t.sorted = true ∧
      t.ord.take (min n (clamp s.params times)) =
        orderBy t.buf (List.range (min n (clamp s.params times))) ∧
      t.ord.drop (min n (clamp s.params times)) =
        (s.identityOrd (clamp s.params times)).drop (min n (clamp s.params times)) ∧
      t.sortSwaps = inversionsBy t.buf (List.range (min n (clamp s.params times))) ∧
      t.wait = s.wait ∧
      t.clockIn = s.clockIn.drop (2 * n) ∧ t.levelIn = s.levelIn.drop n ∧
      t.byteIn = s.byteIn.drop (3 * n) ∧ t.drawn = s.drawn + 6 * n ∧
      t.history = s.history ++ s.readingsEvents n

/-- R184 at the first iteration of a reading: after `k` readings, the reading whose deadline check fires ends
READ_MEDIAN with TIMED_OUT and RESULT 0; the new capacity and the readings added are kept, unsorted, ORD the
identity and untouched above CAPACITY (R143, R22), the other entries of BUF and SORT_SWAPS as before, and nothing
after the check happens. -/
def Obligations.ReadMedianTimesOut : Prop :=
  ∀ (times : Word) (s : State) (n k : Nat), s.Inv → times.toInt = n → k < n →
    (∀ j, j < k → s.ReadyAtOnce j) → 1000 ≤ (s.clockOf k - s.startOf k).toNat →
    ∃ t, exec (.readMedian times) s = .next t ∧
      s.AfterReadings (clamp s.params times) k t ∧
      t.status = .timedOut ∧ t.result = 0 ∧ t.sorted = false ∧ t.sortSwaps = s.sortSwaps ∧
      t.ord = s.identityOrd (clamp s.params times) ∧ t.wait = s.wait ∧
      t.clockIn = s.clockIn.drop (2 * k + 2) ∧ t.levelIn = s.levelIn.drop k ∧
      t.byteIn = s.byteIn.drop (3 * k) ∧ t.drawn = s.drawn + 6 * k + 2 ∧
      t.history = s.history ++ s.readingsEvents k ++ [.now (s.startOf k), .now (s.clockOf k)]

/-- The reading that samples HIGH suspends READ_MEDIAN at its yield (R183; the wait in the state is log entry 4, its
patience log entry 11): the readings before it are in the filter, ORD is the identity and untouched above
CAPACITY (R143, R22), the other entries of BUF stay, the wait keeps the reading's own start clock value and how
many readings follow it, and STATUS and RESULT are not yet written. -/
def Obligations.ReadMedianYields : Prop :=
  ∀ (times : Word) (s : State) (n k : Nat), s.Inv → times.toInt = n → k < n →
    (∀ j, j < k → s.ReadyAtOnce j) → (s.clockOf k - s.startOf k).toNat < 1000 →
    s.levelOf k = .high →
    ∃ t, exec (.readMedian times) s = .next t ∧
      s.AfterReadings (clamp s.params times) k t ∧
      t.wait = some
        { start := s.startOf k, task := .median (n - 1 - k), patience := s.patienceAt (6 * k) } ∧
      t.ord = s.identityOrd (clamp s.params times) ∧
      t.status = s.status ∧ t.result = s.result ∧ t.sorted = false ∧ t.sortSwaps = s.sortSwaps ∧
      t.clockIn = s.clockIn.drop (2 * k + 2) ∧ t.levelIn = s.levelIn.drop (k + 1) ∧
      t.byteIn = s.byteIn.drop (3 * k) ∧ t.drawn = s.drawn + 6 * k + 3 ∧
      t.history = s.history ++ s.readingsEvents k ++
        [.now (s.startOf k), .now (s.clockOf k), .pinRead s.params.dataPin .high, .yield]

/-- One iteration of a READ_MEDIAN that waits, as a step, by how it ends (R180, R183, R184): past 1000 ms
TIMED_OUT; HIGH yields again; LOW on the last reading adds it, puts the prefix of ORD in order, counts the
exchanges in SORT_SWAPS and gives the median of the values held, and nothing else changes; LOW on an earlier one
adds it, reads the clock for the next reading's start, and goes on within the step as from a wait of that
reading with its own patience (log entries 4 and 11). -/
def Obligations.MedianWaitIteration : Prop :=
  ∀ (s : State) (w : CommandWord) (start : Word) (left p : Nat), s.Inv →
    s.fetch = some w → s.wait = some { start := start, task := .median left, patience := p } →
    (1000 ≤ (s.pollAnswer start 1000 p - start).toNat →
      step s = .next { s with
        clockIn := s.clockIn.drop 1
        drawn := s.drawn + 1
        history := s.history ++ [.now (s.pollAnswer start 1000 p), .command w .timedOut 0]
        status := .timedOut
        result := 0
        wait := none
        cp := s.cp + 1 }) ∧
    ((s.pollAnswer start 1000 p - start).toNat < 1000 → s.levelAt 0 1 = .high →
      step s = .next { s with
        clockIn := s.clockIn.drop 1
        levelIn := s.levelIn.drop 1
        drawn := s.drawn + 2
        history := s.history ++ highEvents s.params.dataPin (s.pollAnswer start 1000 p)
        wait := some { start := start, task := .median left, patience := p - 1 } }) ∧
    ((s.pollAnswer start 1000 p - start).toNat < 1000 → s.levelAt 0 1 = .low → left = 0 →
      ∃ buf' count' ord', buf' =
          s.buf.set s.writeIndex (assemble (s.byteAt 0 2) (s.byteAt 1 3) (s.byteAt 2 4)) ∧
        count' = (if s.count < s.capacity then s.count + 1 else s.count) ∧
        ord'.take count' = orderBy buf' (s.ord.take count') ∧ ord'.drop count' = s.ord.drop count' ∧
        step s = .next { s with
          buf := buf'
          count := count'
          writeIndex := (s.writeIndex + 1) % s.capacity
          ord := ord'
          sorted := true
          sortSwaps := inversionsBy buf' (s.ord.take count')
          status := .ok
          result := medianOf (buf'.take count')
          clockIn := s.clockIn.drop 1
          levelIn := s.levelIn.drop 1
          byteIn := s.byteIn.drop 3
          drawn := s.drawn + 5
          history := s.history ++
            lowEvents s.params.dataPin s.params.clockPin s.gainPulses.toNat
              (s.pollAnswer start 1000 p) (s.byteAt 0 2) (s.byteAt 1 3) (s.byteAt 2 4) ++
            [.command w .ok (medianOf (buf'.take count'))]
          wait := none
          cp := s.cp + 1 }) ∧
    (∀ m, (s.pollAnswer start 1000 p - start).toNat < 1000 → s.levelAt 0 1 = .low → left = m + 1 →
      step s = step { s with
        buf := s.buf.set s.writeIndex (assemble (s.byteAt 0 2) (s.byteAt 1 3) (s.byteAt 2 4))
        writeIndex := (s.writeIndex + 1) % s.capacity
        count := if s.count < s.capacity then s.count + 1 else s.count
        sorted := false
        clockIn := s.clockIn.drop 2
        levelIn := s.levelIn.drop 1
        byteIn := s.byteIn.drop 3
        drawn := s.drawn + 6
        history := s.history ++
          lowEvents s.params.dataPin s.params.clockPin s.gainPulses.toNat
            (s.pollAnswer start 1000 p) (s.byteAt 0 2) (s.byteAt 1 3) (s.byteAt 2 4) ++ [.now (s.clockAt 1 5)]
        wait := some { start := s.clockAt 1 5, task := .median m, patience := s.patienceAt 5 + 1 } })

/-- READ_MEDIAN from its start to its end, for every number of HIGH samples in each reading (R180, R182, R183, R185;
R186 and R187, which the spec derives): one step and one more for each HIGH sample (the cut into steps is log
entry 4); each reading is a whole READ cycle with its own start clock value and 1000 ms; the result is the
median of the last readings, SORTED = 1; ORD is the identity put in order of value and untouched above
CAPACITY, SORT_SWAPS the number of inversions of the readings as BUF holds them (R31), and the other entries of
BUF stay (R22). -/
def Obligations.ReadMedianRun : Prop :=
  ∀ (s : State) (w : CommandWord) (times : Word) (rs : List Reading) (cs : List Word)
    (ls : List Level) (bs : List Byte),
    s.Inv → s.wait = none → s.fetch = some w → decode w = .ok (.readMedian times) →
    times.toInt = rs.length → 0 < rs.length → (∀ r ∈ rs, r.inTime 1000) →
    s.clockIn = rs.flatMap Reading.clocks ++ cs → s.levelIn = rs.flatMap Reading.levels ++ ls →
    s.byteIn = rs.flatMap Reading.bytes ++ bs →
    ∃ t, Host.Core.run core ((rs.map fun r => r.highs.length).sum + 1) s = .next t ∧
      t.status = .ok ∧ t.wait = none ∧ t.cp = s.cp + 1 ∧ t.gainPulses = s.gainPulses ∧
      t.params = s.params ∧ t.program = s.program ∧ t.drawn = s.drawn + (rs.map Reading.answers).sum ∧
      t.capacity = clamp s.params times ∧ t.count = min rs.length (clamp s.params times) ∧
      t.sorted = true ∧
      t.window = lastOf (clamp s.params times) (rs.map Reading.value) ∧
      t.result = medianOf (lastOf (clamp s.params times) (rs.map Reading.value)) ∧
      t.writeIndex = rs.length % clamp s.params times ∧
      t.buf.drop t.count = s.buf.drop t.count ∧
      t.ord.take t.count = orderBy t.buf (List.range t.count) ∧
      t.ord.drop t.count = (s.identityOrd (clamp s.params times)).drop t.count ∧
      t.sortSwaps = inversionsBy t.buf (List.range t.count) ∧
      t.clockIn = cs ∧ t.levelIn = ls ∧ t.byteIn = bs ∧
      t.history = s.history ++
        rs.flatMap (Reading.events s.params.dataPin s.params.clockPin s.gainPulses.toNat) ++
        [.command w .ok t.result]

/-! ## The whole machine -/

/-- The invariant (10_state R26; R28 and R29, which the spec derives; 60_exceptions R200) is kept by every
step from every state that has it. -/
def Obligations.InvariantKept : Prop :=
  ∀ s t : State, s.Inv → step s = .next t → t.Inv

/-- The invariant holds after construction with any legal parameters, and at State.reset (whose parameters are
the model's choice, log entry 1; the contents of BUF and of ORD above CAPACITY are the model's choice, log
entry 2). -/
def Obligations.InvariantAtConstruction : Prop :=
  (∀ p : Params, p.wellFormed = true → (State.construct p).Inv) ∧ State.reset.Inv

/-- R218, R52: from a state with the invariant every step answers a next state: no index is out of range, no
command word is refused, nothing is stuck. -/
def Obligations.EveryStepAnswers : Prop :=
  ∀ s : State, s.Inv → ∃ t, step s = .next t

/-- R230: what construction leaves, at every legal parameters; no host primitive call is made. BUF and ORD at
and above CAPACITY, which R230 leaves unspecified, are left out. -/
def Obligations.ConstructionValues : Prop :=
  ∀ p : Params, p.wellFormed = true →
    (State.construct p).params = p ∧
    (State.construct p).gainPulses =
      (if p.gainCodeInit = 128 then 1 else if p.gainCodeInit = 64 then 3
        else if p.gainCodeInit = 32 then 2 else 1) ∧
    ((State.construct p).capacity : Int) =
      max (p.minSize : Int) (min (p.maxSize : Int) p.capacityInit.toInt) ∧
    (State.construct p).count = 0 ∧ (State.construct p).writeIndex = 0 ∧
    (State.construct p).sorted = false ∧
    (∀ i, i < (State.construct p).capacity → (State.construct p).ord[i]? = some i) ∧
    (State.construct p).status = .ok ∧ (State.construct p).result = 0 ∧
    (State.construct p).sortSwaps = 0 ∧ (State.construct p).history = [] ∧
    (State.construct p).buf.length = p.maxSize ∧ (State.construct p).ord.length = p.maxSize ∧
    (State.construct p).fill = .empty

/-- R200 (columns code, raised by, RESULT recorded) and the order of the checks of R207: which status each
command can finish with, and when EMPTY_FILTER is the one; RESULT is 0 with every error status. -/
def Obligations.StatusOfEachCommand : Prop :=
  (Status.ok.code = 0 ∧ Status.timedOut.code = 1 ∧ Status.emptyFilter.code = 2 ∧
    Status.illegalCommand.code = 3) ∧
  ∀ (s t : State) (w : CommandWord), s.Inv → s.fetch = some w → step s = .next t → t.wait = none →
    (t.status ≠ .ok → t.result = 0) ∧
    match decode w with
    | .error _ => t.status = .illegalCommand
    | .ok .begin => t.status = .ok
    | .ok (.setGain _) => t.status = .ok
    | .ok .isReady => t.status = .ok
    | .ok (.read _) => t.status = .ok ∨ t.status = .timedOut
    | .ok .powerDown => t.status = .ok
    | .ok .powerUp => t.status = .ok
    | .ok (.filterConfigure _) => t.status = .ok
    | .ok .filterClear => t.status = .ok
    | .ok (.filterAdd _) => t.status = .ok
    | .ok .filterGetMedian => t.status = if s.count = 0 then .emptyFilter else .ok
    | .ok (.readMedian times) =>
      if times.toInt ≤ 0 then t.status = .emptyFilter else t.status = .ok ∨ t.status = .timedOut

/-- The column "written by" of 10_state R21: a step writes S1 to S7 and S10 only as the table lets its command,
and an illegal word writes none; the flag SORTED goes from 0 to 1 only in a median step with a value held
(R25). The parameters are never written (R20). -/
def Obligations.WhoWritesWhat : Prop :=
  ∀ (s t : State) (w : CommandWord), s.WaitMatches → s.fetch = some w → step s = .next t →
    t.params = s.params ∧
    match decode w with
    | .error _ => ∀ e : Element, e.same s t
    | .ok i =>
      (∀ e : Element, e ∉ elementsWritten i → e.same s t) ∧
      (s.sorted = false → t.sorted = true →
        (i = .filterGetMedian ∨ ∃ times, i = .readMedian times) ∧ 0 < t.count)

/-- No observation depends on BUF entries that have not been written since the last clear (the spec derives
it in 10_state section 4): with other values in the slots at and above COUNT, a step does the same but for
such slots. So nothing rests on the reset contents of log entry 2. -/
def Obligations.UnwrittenSlotsUnobserved : Prop :=
  ∀ (s t : State) (b : List Word), s.Inv → b.length = s.buf.length →
    b.take s.count = s.buf.take s.count → step s = .next t →
    ∃ b', step { s with buf := b } = .next { t with buf := b' } ∧ b'.length = t.buf.length ∧
      b'.take t.count = t.buf.take t.count

/-! ## Assembler (30_encoding R87, R88) -/

/-- R88: each pseudo-instruction and alias assembles as its expansion, with whatever operands follow. -/
def Obligations.AliasesExpand : Prop :=
  assembleTokens ["READ".toList] = assembleTokens ["READ".toList, "1000".toList] ∧
  assembleTokens ["READ_MEDIAN".toList] = assembleTokens ["READ_MEDIAN".toList, "10".toList] ∧
  assembleTokens ["SET_GAIN".toList, "A128".toList] = assembleTokens ["SET_GAIN".toList, "128".toList] ∧
  assembleTokens ["SET_GAIN".toList, "A64".toList] = assembleTokens ["SET_GAIN".toList, "64".toList] ∧
  assembleTokens ["SET_GAIN".toList, "B32".toList] = assembleTokens ["SET_GAIN".toList, "32".toList] ∧
  ∀ rest : List (List Char),
    assembleTokens ("begin".toList :: rest) = assembleTokens ("BEGIN".toList :: rest) ∧
    assembleTokens ("setGain".toList :: rest) = assembleTokens ("SET_GAIN".toList :: rest) ∧
    assembleTokens ("isReady".toList :: rest) = assembleTokens ("IS_READY".toList :: rest) ∧
    assembleTokens ("read".toList :: rest) = assembleTokens ("READ".toList :: rest) ∧
    assembleTokens ("powerDown".toList :: rest) = assembleTokens ("POWER_DOWN".toList :: rest) ∧
    assembleTokens ("powerUp".toList :: rest) = assembleTokens ("POWER_UP".toList :: rest) ∧
    assembleTokens ("readMedian".toList :: rest) = assembleTokens ("READ_MEDIAN".toList :: rest) ∧
    assembleTokens ("clear".toList :: rest) = assembleTokens ("FILTER_CLEAR".toList :: rest) ∧
    assembleTokens ("add".toList :: rest) = assembleTokens ("FILTER_ADD".toList :: rest) ∧
    assembleTokens ("getMedian".toList :: rest) = assembleTokens ("FILTER_GET_MEDIAN".toList :: rest)

/-- R87, for every written operand: a decimal that fits the command's decoding, and `0x` with 1 to 8 hexadecimal
digits, gives `operand mod 2^32`; any other is refused: a decimal out of range, `0x` with no digit (the
model's choice, log entry 13) or with more than 8, any operand of a command that takes none, by its
decoding and as the tokens of a line, and a text that is neither a number nor a gain name. -/
def Obligations.OperandsFitOrRefused : Prop :=
  (∀ v : Int, operandWord .unsigned (.decimal v) =
    if 0 ≤ v ∧ v ≤ 4294967295 then .ok (BitVec.ofInt 32 v) else .error .operandDoesNotFit) ∧
  (∀ v : Int, operandWord .signed (.decimal v) =
    if -2147483648 ≤ v ∧ v ≤ 2147483647 then .ok (BitVec.ofInt 32 v)
    else .error .operandDoesNotFit) ∧
  (∀ (kind : OperandKind) (digits v : Nat), kind ≠ .none → v < 16 ^ digits →
    operandWord kind (.hex digits v) =
      if 1 ≤ digits ∧ digits ≤ 8 then .ok (BitVec.ofNat 32 v) else .error .operandDoesNotFit) ∧
  (∀ written : Written, operandWord .none written = .error .operandDoesNotFit) ∧
  (∀ (m : Mnemonic) (name text : List Char), mnemonicOf name = some m → m.kind = .none →
    assembleTokens [name, text] = .error .unexpectedOperand) ∧
  (∀ m : Mnemonic, m.kind ≠ .none → operandOf m "0x".toList = .error .operandDoesNotFit) ∧
  (∀ (m : Mnemonic) (text : List Char), writtenOperand text = none →
    (m = .setGain → gainName text = none) → operandOf m text = .error .notANumber)
end

