-- ==== Sys2Proof/Laws/State.lean ====
section
/-!
SUPPORT. What each update does to each field of the state: one lemma per field per update, so that no
later proof unfolds a record update.
-/

namespace Sys2Proof.Machine

@[simp] theorem State.record_params (e : Event) (s : State) :
    (s.record e).params = s.params := rfl

@[simp] theorem State.record_gainPulses (e : Event) (s : State) :
    (s.record e).gainPulses = s.gainPulses := rfl

@[simp] theorem State.record_capacity (e : Event) (s : State) :
    (s.record e).capacity = s.capacity := rfl

@[simp] theorem State.record_count (e : Event) (s : State) :
    (s.record e).count = s.count := rfl

@[simp] theorem State.record_writeIndex (e : Event) (s : State) :
    (s.record e).writeIndex = s.writeIndex := rfl

@[simp] theorem State.record_sorted (e : Event) (s : State) :
    (s.record e).sorted = s.sorted := rfl

@[simp] theorem State.record_buf (e : Event) (s : State) :
    (s.record e).buf = s.buf := rfl

@[simp] theorem State.record_ord (e : Event) (s : State) :
    (s.record e).ord = s.ord := rfl

@[simp] theorem State.record_status (e : Event) (s : State) :
    (s.record e).status = s.status := rfl

@[simp] theorem State.record_result (e : Event) (s : State) :
    (s.record e).result = s.result := rfl

@[simp] theorem State.record_sortSwaps (e : Event) (s : State) :
    (s.record e).sortSwaps = s.sortSwaps := rfl

@[simp] theorem State.record_program (e : Event) (s : State) :
    (s.record e).program = s.program := rfl

@[simp] theorem State.record_cp (e : Event) (s : State) :
    (s.record e).cp = s.cp := rfl

@[simp] theorem State.record_wait (e : Event) (s : State) :
    (s.record e).wait = s.wait := rfl

@[simp] theorem State.record_history (e : Event) (s : State) :
    (s.record e).history = s.history ++ [e] := rfl

@[simp] theorem State.record_clockIn (e : Event) (s : State) :
    (s.record e).clockIn = s.clockIn := rfl

@[simp] theorem State.record_levelIn (e : Event) (s : State) :
    (s.record e).levelIn = s.levelIn := rfl

@[simp] theorem State.record_byteIn (e : Event) (s : State) :
    (s.record e).byteIn = s.byteIn := rfl

@[simp] theorem State.record_drawn (e : Event) (s : State) :
    (s.record e).drawn = s.drawn := rfl

@[simp] theorem State.writeClock_params (level : Level) (s : State) :
    (s.writeClock level).params = s.params := rfl

@[simp] theorem State.writeClock_gainPulses (level : Level) (s : State) :
    (s.writeClock level).gainPulses = s.gainPulses := rfl

@[simp] theorem State.writeClock_capacity (level : Level) (s : State) :
    (s.writeClock level).capacity = s.capacity := rfl

@[simp] theorem State.writeClock_count (level : Level) (s : State) :
    (s.writeClock level).count = s.count := rfl

@[simp] theorem State.writeClock_writeIndex (level : Level) (s : State) :
    (s.writeClock level).writeIndex = s.writeIndex := rfl

@[simp] theorem State.writeClock_sorted (level : Level) (s : State) :
    (s.writeClock level).sorted = s.sorted := rfl

@[simp] theorem State.writeClock_buf (level : Level) (s : State) :
    (s.writeClock level).buf = s.buf := rfl

@[simp] theorem State.writeClock_ord (level : Level) (s : State) :
    (s.writeClock level).ord = s.ord := rfl

@[simp] theorem State.writeClock_status (level : Level) (s : State) :
    (s.writeClock level).status = s.status := rfl

@[simp] theorem State.writeClock_result (level : Level) (s : State) :
    (s.writeClock level).result = s.result := rfl

@[simp] theorem State.writeClock_sortSwaps (level : Level) (s : State) :
    (s.writeClock level).sortSwaps = s.sortSwaps := rfl

@[simp] theorem State.writeClock_program (level : Level) (s : State) :
    (s.writeClock level).program = s.program := rfl

@[simp] theorem State.writeClock_cp (level : Level) (s : State) :
    (s.writeClock level).cp = s.cp := rfl

@[simp] theorem State.writeClock_wait (level : Level) (s : State) :
    (s.writeClock level).wait = s.wait := rfl

@[simp] theorem State.writeClock_history (level : Level) (s : State) :
    (s.writeClock level).history = s.history ++ [.pinWrite s.params.clockPin level] := rfl

@[simp] theorem State.writeClock_clockIn (level : Level) (s : State) :
    (s.writeClock level).clockIn = s.clockIn := rfl

@[simp] theorem State.writeClock_levelIn (level : Level) (s : State) :
    (s.writeClock level).levelIn = s.levelIn := rfl

@[simp] theorem State.writeClock_byteIn (level : Level) (s : State) :
    (s.writeClock level).byteIn = s.byteIn := rfl

@[simp] theorem State.writeClock_drawn (level : Level) (s : State) :
    (s.writeClock level).drawn = s.drawn := rfl

@[simp] theorem State.setPinMode_params (pin : PinId) (mode : PinMode) (s : State) :
    (s.setPinMode pin mode).params = s.params := rfl

@[simp] theorem State.setPinMode_gainPulses (pin : PinId) (mode : PinMode) (s : State) :
    (s.setPinMode pin mode).gainPulses = s.gainPulses := rfl

@[simp] theorem State.setPinMode_capacity (pin : PinId) (mode : PinMode) (s : State) :
    (s.setPinMode pin mode).capacity = s.capacity := rfl

@[simp] theorem State.setPinMode_count (pin : PinId) (mode : PinMode) (s : State) :
    (s.setPinMode pin mode).count = s.count := rfl

@[simp] theorem State.setPinMode_writeIndex (pin : PinId) (mode : PinMode) (s : State) :
    (s.setPinMode pin mode).writeIndex = s.writeIndex := rfl

@[simp] theorem State.setPinMode_sorted (pin : PinId) (mode : PinMode) (s : State) :
    (s.setPinMode pin mode).sorted = s.sorted := rfl

@[simp] theorem State.setPinMode_buf (pin : PinId) (mode : PinMode) (s : State) :
    (s.setPinMode pin mode).buf = s.buf := rfl

@[simp] theorem State.setPinMode_ord (pin : PinId) (mode : PinMode) (s : State) :
    (s.setPinMode pin mode).ord = s.ord := rfl

@[simp] theorem State.setPinMode_status (pin : PinId) (mode : PinMode) (s : State) :
    (s.setPinMode pin mode).status = s.status := rfl

@[simp] theorem State.setPinMode_result (pin : PinId) (mode : PinMode) (s : State) :
    (s.setPinMode pin mode).result = s.result := rfl

@[simp] theorem State.setPinMode_sortSwaps (pin : PinId) (mode : PinMode) (s : State) :
    (s.setPinMode pin mode).sortSwaps = s.sortSwaps := rfl

@[simp] theorem State.setPinMode_program (pin : PinId) (mode : PinMode) (s : State) :
    (s.setPinMode pin mode).program = s.program := rfl

@[simp] theorem State.setPinMode_cp (pin : PinId) (mode : PinMode) (s : State) :
    (s.setPinMode pin mode).cp = s.cp := rfl

@[simp] theorem State.setPinMode_wait (pin : PinId) (mode : PinMode) (s : State) :
    (s.setPinMode pin mode).wait = s.wait := rfl

@[simp] theorem State.setPinMode_history (pin : PinId) (mode : PinMode) (s : State) :
    (s.setPinMode pin mode).history = s.history ++ [.pinMode pin mode] := rfl

@[simp] theorem State.setPinMode_clockIn (pin : PinId) (mode : PinMode) (s : State) :
    (s.setPinMode pin mode).clockIn = s.clockIn := rfl

@[simp] theorem State.setPinMode_levelIn (pin : PinId) (mode : PinMode) (s : State) :
    (s.setPinMode pin mode).levelIn = s.levelIn := rfl

@[simp] theorem State.setPinMode_byteIn (pin : PinId) (mode : PinMode) (s : State) :
    (s.setPinMode pin mode).byteIn = s.byteIn := rfl

@[simp] theorem State.setPinMode_drawn (pin : PinId) (mode : PinMode) (s : State) :
    (s.setPinMode pin mode).drawn = s.drawn := rfl

@[simp] theorem State.yield_params (s : State) :
    (s.yield).params = s.params := rfl

@[simp] theorem State.yield_gainPulses (s : State) :
    (s.yield).gainPulses = s.gainPulses := rfl

@[simp] theorem State.yield_capacity (s : State) :
    (s.yield).capacity = s.capacity := rfl

@[simp] theorem State.yield_count (s : State) :
    (s.yield).count = s.count := rfl

@[simp] theorem State.yield_writeIndex (s : State) :
    (s.yield).writeIndex = s.writeIndex := rfl

@[simp] theorem State.yield_sorted (s : State) :
    (s.yield).sorted = s.sorted := rfl

@[simp] theorem State.yield_buf (s : State) :
    (s.yield).buf = s.buf := rfl

@[simp] theorem State.yield_ord (s : State) :
    (s.yield).ord = s.ord := rfl

@[simp] theorem State.yield_status (s : State) :
    (s.yield).status = s.status := rfl

@[simp] theorem State.yield_result (s : State) :
    (s.yield).result = s.result := rfl

@[simp] theorem State.yield_sortSwaps (s : State) :
    (s.yield).sortSwaps = s.sortSwaps := rfl

@[simp] theorem State.yield_program (s : State) :
    (s.yield).program = s.program := rfl

@[simp] theorem State.yield_cp (s : State) :
    (s.yield).cp = s.cp := rfl

@[simp] theorem State.yield_wait (s : State) :
    (s.yield).wait = s.wait := rfl

@[simp] theorem State.yield_history (s : State) :
    (s.yield).history = s.history ++ [.yield] := rfl

@[simp] theorem State.yield_clockIn (s : State) :
    (s.yield).clockIn = s.clockIn := rfl

@[simp] theorem State.yield_levelIn (s : State) :
    (s.yield).levelIn = s.levelIn := rfl

@[simp] theorem State.yield_byteIn (s : State) :
    (s.yield).byteIn = s.byteIn := rfl

@[simp] theorem State.yield_drawn (s : State) :
    (s.yield).drawn = s.drawn := rfl

@[simp] theorem State.tellClock_params (t : Word) (s : State) :
    (s.tellClock t).params = s.params := rfl

@[simp] theorem State.tellClock_gainPulses (t : Word) (s : State) :
    (s.tellClock t).gainPulses = s.gainPulses := rfl

@[simp] theorem State.tellClock_capacity (t : Word) (s : State) :
    (s.tellClock t).capacity = s.capacity := rfl

@[simp] theorem State.tellClock_count (t : Word) (s : State) :
    (s.tellClock t).count = s.count := rfl

@[simp] theorem State.tellClock_writeIndex (t : Word) (s : State) :
    (s.tellClock t).writeIndex = s.writeIndex := rfl

@[simp] theorem State.tellClock_sorted (t : Word) (s : State) :
    (s.tellClock t).sorted = s.sorted := rfl

@[simp] theorem State.tellClock_buf (t : Word) (s : State) :
    (s.tellClock t).buf = s.buf := rfl

@[simp] theorem State.tellClock_ord (t : Word) (s : State) :
    (s.tellClock t).ord = s.ord := rfl

@[simp] theorem State.tellClock_status (t : Word) (s : State) :
    (s.tellClock t).status = s.status := rfl

@[simp] theorem State.tellClock_result (t : Word) (s : State) :
    (s.tellClock t).result = s.result := rfl

@[simp] theorem State.tellClock_sortSwaps (t : Word) (s : State) :
    (s.tellClock t).sortSwaps = s.sortSwaps := rfl

@[simp] theorem State.tellClock_program (t : Word) (s : State) :
    (s.tellClock t).program = s.program := rfl

@[simp] theorem State.tellClock_cp (t : Word) (s : State) :
    (s.tellClock t).cp = s.cp := rfl

@[simp] theorem State.tellClock_wait (t : Word) (s : State) :
    (s.tellClock t).wait = s.wait := rfl

@[simp] theorem State.tellClock_history (t : Word) (s : State) :
    (s.tellClock t).history = s.history ++ [.now t] := rfl

@[simp] theorem State.tellClock_clockIn (t : Word) (s : State) :
    (s.tellClock t).clockIn = s.clockIn.tail := rfl

@[simp] theorem State.tellClock_levelIn (t : Word) (s : State) :
    (s.tellClock t).levelIn = s.levelIn := rfl

@[simp] theorem State.tellClock_byteIn (t : Word) (s : State) :
    (s.tellClock t).byteIn = s.byteIn := rfl

@[simp] theorem State.tellClock_drawn (t : Word) (s : State) :
    (s.tellClock t).drawn = s.drawn + 1 := rfl

@[simp] theorem State.now_params (s : State) :
    (s.now.2).params = s.params := rfl

@[simp] theorem State.now_gainPulses (s : State) :
    (s.now.2).gainPulses = s.gainPulses := rfl

@[simp] theorem State.now_capacity (s : State) :
    (s.now.2).capacity = s.capacity := rfl

@[simp] theorem State.now_count (s : State) :
    (s.now.2).count = s.count := rfl

@[simp] theorem State.now_writeIndex (s : State) :
    (s.now.2).writeIndex = s.writeIndex := rfl

@[simp] theorem State.now_sorted (s : State) :
    (s.now.2).sorted = s.sorted := rfl

@[simp] theorem State.now_buf (s : State) :
    (s.now.2).buf = s.buf := rfl

@[simp] theorem State.now_ord (s : State) :
    (s.now.2).ord = s.ord := rfl

@[simp] theorem State.now_status (s : State) :
    (s.now.2).status = s.status := rfl

@[simp] theorem State.now_result (s : State) :
    (s.now.2).result = s.result := rfl

@[simp] theorem State.now_sortSwaps (s : State) :
    (s.now.2).sortSwaps = s.sortSwaps := rfl

@[simp] theorem State.now_program (s : State) :
    (s.now.2).program = s.program := rfl

@[simp] theorem State.now_cp (s : State) :
    (s.now.2).cp = s.cp := rfl

@[simp] theorem State.now_wait (s : State) :
    (s.now.2).wait = s.wait := rfl

@[simp] theorem State.now_history (s : State) :
    (s.now.2).history = s.history ++ [.now s.clockAnswer] := rfl

@[simp] theorem State.now_clockIn (s : State) :
    (s.now.2).clockIn = s.clockIn.tail := rfl

@[simp] theorem State.now_levelIn (s : State) :
    (s.now.2).levelIn = s.levelIn := rfl

@[simp] theorem State.now_byteIn (s : State) :
    (s.now.2).byteIn = s.byteIn := rfl

@[simp] theorem State.now_drawn (s : State) :
    (s.now.2).drawn = s.drawn + 1 := rfl

@[simp] theorem State.pinRead_params (s : State) :
    (s.pinRead.2).params = s.params := rfl

@[simp] theorem State.pinRead_gainPulses (s : State) :
    (s.pinRead.2).gainPulses = s.gainPulses := rfl

@[simp] theorem State.pinRead_capacity (s : State) :
    (s.pinRead.2).capacity = s.capacity := rfl

@[simp] theorem State.pinRead_count (s : State) :
    (s.pinRead.2).count = s.count := rfl

@[simp] theorem State.pinRead_writeIndex (s : State) :
    (s.pinRead.2).writeIndex = s.writeIndex := rfl

@[simp] theorem State.pinRead_sorted (s : State) :
    (s.pinRead.2).sorted = s.sorted := rfl

@[simp] theorem State.pinRead_buf (s : State) :
    (s.pinRead.2).buf = s.buf := rfl

@[simp] theorem State.pinRead_ord (s : State) :
    (s.pinRead.2).ord = s.ord := rfl

@[simp] theorem State.pinRead_status (s : State) :
    (s.pinRead.2).status = s.status := rfl

@[simp] theorem State.pinRead_result (s : State) :
    (s.pinRead.2).result = s.result := rfl

@[simp] theorem State.pinRead_sortSwaps (s : State) :
    (s.pinRead.2).sortSwaps = s.sortSwaps := rfl

@[simp] theorem State.pinRead_program (s : State) :
    (s.pinRead.2).program = s.program := rfl

@[simp] theorem State.pinRead_cp (s : State) :
    (s.pinRead.2).cp = s.cp := rfl

@[simp] theorem State.pinRead_wait (s : State) :
    (s.pinRead.2).wait = s.wait := rfl

@[simp] theorem State.pinRead_history (s : State) :
    (s.pinRead.2).history = s.history ++ [.pinRead s.params.dataPin s.levelAnswer] := rfl

@[simp] theorem State.pinRead_clockIn (s : State) :
    (s.pinRead.2).clockIn = s.clockIn := rfl

@[simp] theorem State.pinRead_levelIn (s : State) :
    (s.pinRead.2).levelIn = s.levelIn.tail := rfl

@[simp] theorem State.pinRead_byteIn (s : State) :
    (s.pinRead.2).byteIn = s.byteIn := rfl

@[simp] theorem State.pinRead_drawn (s : State) :
    (s.pinRead.2).drawn = s.drawn + 1 := rfl

@[simp] theorem State.shiftInByte_params (s : State) :
    (s.shiftInByte.2).params = s.params := rfl

@[simp] theorem State.shiftInByte_gainPulses (s : State) :
    (s.shiftInByte.2).gainPulses = s.gainPulses := rfl

@[simp] theorem State.shiftInByte_capacity (s : State) :
    (s.shiftInByte.2).capacity = s.capacity := rfl

@[simp] theorem State.shiftInByte_count (s : State) :
    (s.shiftInByte.2).count = s.count := rfl

@[simp] theorem State.shiftInByte_writeIndex (s : State) :
    (s.shiftInByte.2).writeIndex = s.writeIndex := rfl

@[simp] theorem State.shiftInByte_sorted (s : State) :
    (s.shiftInByte.2).sorted = s.sorted := rfl

@[simp] theorem State.shiftInByte_buf (s : State) :
    (s.shiftInByte.2).buf = s.buf := rfl

@[simp] theorem State.shiftInByte_ord (s : State) :
    (s.shiftInByte.2).ord = s.ord := rfl

@[simp] theorem State.shiftInByte_status (s : State) :
    (s.shiftInByte.2).status = s.status := rfl

@[simp] theorem State.shiftInByte_result (s : State) :
    (s.shiftInByte.2).result = s.result := rfl

@[simp] theorem State.shiftInByte_sortSwaps (s : State) :
    (s.shiftInByte.2).sortSwaps = s.sortSwaps := rfl

@[simp] theorem State.shiftInByte_program (s : State) :
    (s.shiftInByte.2).program = s.program := rfl

@[simp] theorem State.shiftInByte_cp (s : State) :
    (s.shiftInByte.2).cp = s.cp := rfl

@[simp] theorem State.shiftInByte_wait (s : State) :
    (s.shiftInByte.2).wait = s.wait := rfl

@[simp] theorem State.shiftInByte_history (s : State) :
    (s.shiftInByte.2).history = s.history ++ [.shiftInByte s.params.dataPin s.params.clockPin s.byteAnswer] := rfl

@[simp] theorem State.shiftInByte_clockIn (s : State) :
    (s.shiftInByte.2).clockIn = s.clockIn := rfl

@[simp] theorem State.shiftInByte_levelIn (s : State) :
    (s.shiftInByte.2).levelIn = s.levelIn := rfl

@[simp] theorem State.shiftInByte_byteIn (s : State) :
    (s.shiftInByte.2).byteIn = s.byteIn.tail := rfl

@[simp] theorem State.shiftInByte_drawn (s : State) :
    (s.shiftInByte.2).drawn = s.drawn + 1 := rfl

@[simp] theorem State.finish_params (status : Status) (result : Word) (s : State) :
    (s.finish status result).params = s.params := rfl

@[simp] theorem State.finish_gainPulses (status : Status) (result : Word) (s : State) :
    (s.finish status result).gainPulses = s.gainPulses := rfl

@[simp] theorem State.finish_capacity (status : Status) (result : Word) (s : State) :
    (s.finish status result).capacity = s.capacity := rfl

@[simp] theorem State.finish_count (status : Status) (result : Word) (s : State) :
    (s.finish status result).count = s.count := rfl

@[simp] theorem State.finish_writeIndex (status : Status) (result : Word) (s : State) :
    (s.finish status result).writeIndex = s.writeIndex := rfl

@[simp] theorem State.finish_sorted (status : Status) (result : Word) (s : State) :
    (s.finish status result).sorted = s.sorted := rfl

@[simp] theorem State.finish_buf (status : Status) (result : Word) (s : State) :
    (s.finish status result).buf = s.buf := rfl

@[simp] theorem State.finish_ord (status : Status) (result : Word) (s : State) :
    (s.finish status result).ord = s.ord := rfl

@[simp] theorem State.finish_status (status : Status) (result : Word) (s : State) :
    (s.finish status result).status = status := rfl

@[simp] theorem State.finish_result (status : Status) (result : Word) (s : State) :
    (s.finish status result).result = result := rfl

@[simp] theorem State.finish_sortSwaps (status : Status) (result : Word) (s : State) :
    (s.finish status result).sortSwaps = s.sortSwaps := rfl

@[simp] theorem State.finish_program (status : Status) (result : Word) (s : State) :
    (s.finish status result).program = s.program := rfl

@[simp] theorem State.finish_cp (status : Status) (result : Word) (s : State) :
    (s.finish status result).cp = s.cp := rfl

@[simp] theorem State.finish_wait (status : Status) (result : Word) (s : State) :
    (s.finish status result).wait = s.wait := rfl

@[simp] theorem State.finish_history (status : Status) (result : Word) (s : State) :
    (s.finish status result).history = s.history := rfl

@[simp] theorem State.finish_clockIn (status : Status) (result : Word) (s : State) :
    (s.finish status result).clockIn = s.clockIn := rfl

@[simp] theorem State.finish_levelIn (status : Status) (result : Word) (s : State) :
    (s.finish status result).levelIn = s.levelIn := rfl

@[simp] theorem State.finish_byteIn (status : Status) (result : Word) (s : State) :
    (s.finish status result).byteIn = s.byteIn := rfl

@[simp] theorem State.finish_drawn (status : Status) (result : Word) (s : State) :
    (s.finish status result).drawn = s.drawn := rfl

@[simp] theorem State.raise_params (r : Raise) (s : State) :
    (s.raise r).params = s.params := rfl

@[simp] theorem State.raise_gainPulses (r : Raise) (s : State) :
    (s.raise r).gainPulses = s.gainPulses := rfl

@[simp] theorem State.raise_capacity (r : Raise) (s : State) :
    (s.raise r).capacity = s.capacity := rfl

@[simp] theorem State.raise_count (r : Raise) (s : State) :
    (s.raise r).count = s.count := rfl

@[simp] theorem State.raise_writeIndex (r : Raise) (s : State) :
    (s.raise r).writeIndex = s.writeIndex := rfl

@[simp] theorem State.raise_sorted (r : Raise) (s : State) :
    (s.raise r).sorted = s.sorted := rfl

@[simp] theorem State.raise_buf (r : Raise) (s : State) :
    (s.raise r).buf = s.buf := rfl

@[simp] theorem State.raise_ord (r : Raise) (s : State) :
    (s.raise r).ord = s.ord := rfl

@[simp] theorem State.raise_status (r : Raise) (s : State) :
    (s.raise r).status = r.status := rfl

@[simp] theorem State.raise_result (r : Raise) (s : State) :
    (s.raise r).result = 0 := rfl

@[simp] theorem State.raise_sortSwaps (r : Raise) (s : State) :
    (s.raise r).sortSwaps = s.sortSwaps := rfl

@[simp] theorem State.raise_program (r : Raise) (s : State) :
    (s.raise r).program = s.program := rfl

@[simp] theorem State.raise_cp (r : Raise) (s : State) :
    (s.raise r).cp = s.cp := rfl

@[simp] theorem State.raise_wait (r : Raise) (s : State) :
    (s.raise r).wait = s.wait := rfl

@[simp] theorem State.raise_history (r : Raise) (s : State) :
    (s.raise r).history = s.history := rfl

@[simp] theorem State.raise_clockIn (r : Raise) (s : State) :
    (s.raise r).clockIn = s.clockIn := rfl

@[simp] theorem State.raise_levelIn (r : Raise) (s : State) :
    (s.raise r).levelIn = s.levelIn := rfl

@[simp] theorem State.raise_byteIn (r : Raise) (s : State) :
    (s.raise r).byteIn = s.byteIn := rfl

@[simp] theorem State.raise_drawn (r : Raise) (s : State) :
    (s.raise r).drawn = s.drawn := rfl

@[simp] theorem State.complete_params (w : CommandWord) (s : State) :
    (s.complete w).params = s.params := rfl

@[simp] theorem State.complete_gainPulses (w : CommandWord) (s : State) :
    (s.complete w).gainPulses = s.gainPulses := rfl

@[simp] theorem State.complete_capacity (w : CommandWord) (s : State) :
    (s.complete w).capacity = s.capacity := rfl

@[simp] theorem State.complete_count (w : CommandWord) (s : State) :
    (s.complete w).count = s.count := rfl

@[simp] theorem State.complete_writeIndex (w : CommandWord) (s : State) :
    (s.complete w).writeIndex = s.writeIndex := rfl

@[simp] theorem State.complete_sorted (w : CommandWord) (s : State) :
    (s.complete w).sorted = s.sorted := rfl

@[simp] theorem State.complete_buf (w : CommandWord) (s : State) :
    (s.complete w).buf = s.buf := rfl

@[simp] theorem State.complete_ord (w : CommandWord) (s : State) :
    (s.complete w).ord = s.ord := rfl

@[simp] theorem State.complete_status (w : CommandWord) (s : State) :
    (s.complete w).status = s.status := rfl

@[simp] theorem State.complete_result (w : CommandWord) (s : State) :
    (s.complete w).result = s.result := rfl

@[simp] theorem State.complete_sortSwaps (w : CommandWord) (s : State) :
    (s.complete w).sortSwaps = s.sortSwaps := rfl

@[simp] theorem State.complete_program (w : CommandWord) (s : State) :
    (s.complete w).program = s.program := rfl

@[simp] theorem State.complete_cp (w : CommandWord) (s : State) :
    (s.complete w).cp = s.cp + 1 := rfl

@[simp] theorem State.complete_wait (w : CommandWord) (s : State) :
    (s.complete w).wait = s.wait := rfl

@[simp] theorem State.complete_history (w : CommandWord) (s : State) :
    (s.complete w).history = s.history ++ [.command w s.status s.result] := rfl

@[simp] theorem State.complete_clockIn (w : CommandWord) (s : State) :
    (s.complete w).clockIn = s.clockIn := rfl

@[simp] theorem State.complete_levelIn (w : CommandWord) (s : State) :
    (s.complete w).levelIn = s.levelIn := rfl

@[simp] theorem State.complete_byteIn (w : CommandWord) (s : State) :
    (s.complete w).byteIn = s.byteIn := rfl

@[simp] theorem State.complete_drawn (w : CommandWord) (s : State) :
    (s.complete w).drawn = s.drawn := rfl

@[simp] theorem State.suspend_params (start : Word) (task : WaitTask) (patience : Nat) (s : State) :
    (s.suspend start task patience).params = s.params := rfl

@[simp] theorem State.suspend_gainPulses (start : Word) (task : WaitTask) (patience : Nat) (s : State) :
    (s.suspend start task patience).gainPulses = s.gainPulses := rfl

@[simp] theorem State.suspend_capacity (start : Word) (task : WaitTask) (patience : Nat) (s : State) :
    (s.suspend start task patience).capacity = s.capacity := rfl

@[simp] theorem State.suspend_count (start : Word) (task : WaitTask) (patience : Nat) (s : State) :
    (s.suspend start task patience).count = s.count := rfl

@[simp] theorem State.suspend_writeIndex (start : Word) (task : WaitTask) (patience : Nat) (s : State) :
    (s.suspend start task patience).writeIndex = s.writeIndex := rfl

@[simp] theorem State.suspend_sorted (start : Word) (task : WaitTask) (patience : Nat) (s : State) :
    (s.suspend start task patience).sorted = s.sorted := rfl

@[simp] theorem State.suspend_buf (start : Word) (task : WaitTask) (patience : Nat) (s : State) :
    (s.suspend start task patience).buf = s.buf := rfl

@[simp] theorem State.suspend_ord (start : Word) (task : WaitTask) (patience : Nat) (s : State) :
    (s.suspend start task patience).ord = s.ord := rfl

@[simp] theorem State.suspend_status (start : Word) (task : WaitTask) (patience : Nat) (s : State) :
    (s.suspend start task patience).status = s.status := rfl

@[simp] theorem State.suspend_result (start : Word) (task : WaitTask) (patience : Nat) (s : State) :
    (s.suspend start task patience).result = s.result := rfl

@[simp] theorem State.suspend_sortSwaps (start : Word) (task : WaitTask) (patience : Nat) (s : State) :
    (s.suspend start task patience).sortSwaps = s.sortSwaps := rfl

@[simp] theorem State.suspend_program (start : Word) (task : WaitTask) (patience : Nat) (s : State) :
    (s.suspend start task patience).program = s.program := rfl

@[simp] theorem State.suspend_cp (start : Word) (task : WaitTask) (patience : Nat) (s : State) :
    (s.suspend start task patience).cp = s.cp := rfl

@[simp] theorem State.suspend_wait (start : Word) (task : WaitTask) (patience : Nat) (s : State) :
    (s.suspend start task patience).wait = some { start := start, task := task, patience := patience - 1 } := rfl

@[simp] theorem State.suspend_history (start : Word) (task : WaitTask) (patience : Nat) (s : State) :
    (s.suspend start task patience).history = s.history := rfl

@[simp] theorem State.suspend_clockIn (start : Word) (task : WaitTask) (patience : Nat) (s : State) :
    (s.suspend start task patience).clockIn = s.clockIn := rfl

@[simp] theorem State.suspend_levelIn (start : Word) (task : WaitTask) (patience : Nat) (s : State) :
    (s.suspend start task patience).levelIn = s.levelIn := rfl

@[simp] theorem State.suspend_byteIn (start : Word) (task : WaitTask) (patience : Nat) (s : State) :
    (s.suspend start task patience).byteIn = s.byteIn := rfl

@[simp] theorem State.suspend_drawn (start : Word) (task : WaitTask) (patience : Nat) (s : State) :
    (s.suspend start task patience).drawn = s.drawn := rfl

@[simp] theorem State.markSorted_params (s : State) :
    (s.markSorted).params = s.params := rfl

@[simp] theorem State.markSorted_gainPulses (s : State) :
    (s.markSorted).gainPulses = s.gainPulses := rfl

@[simp] theorem State.markSorted_capacity (s : State) :
    (s.markSorted).capacity = s.capacity := rfl

@[simp] theorem State.markSorted_count (s : State) :
    (s.markSorted).count = s.count := rfl

@[simp] theorem State.markSorted_writeIndex (s : State) :
    (s.markSorted).writeIndex = s.writeIndex := rfl

@[simp] theorem State.markSorted_sorted (s : State) :
    (s.markSorted).sorted = true := rfl

@[simp] theorem State.markSorted_buf (s : State) :
    (s.markSorted).buf = s.buf := rfl

@[simp] theorem State.markSorted_ord (s : State) :
    (s.markSorted).ord = s.ord := rfl

@[simp] theorem State.markSorted_status (s : State) :
    (s.markSorted).status = s.status := rfl

@[simp] theorem State.markSorted_result (s : State) :
    (s.markSorted).result = s.result := rfl

@[simp] theorem State.markSorted_sortSwaps (s : State) :
    (s.markSorted).sortSwaps = s.sortSwaps := rfl

@[simp] theorem State.markSorted_program (s : State) :
    (s.markSorted).program = s.program := rfl

@[simp] theorem State.markSorted_cp (s : State) :
    (s.markSorted).cp = s.cp := rfl

@[simp] theorem State.markSorted_wait (s : State) :
    (s.markSorted).wait = s.wait := rfl

@[simp] theorem State.markSorted_history (s : State) :
    (s.markSorted).history = s.history := rfl

@[simp] theorem State.markSorted_clockIn (s : State) :
    (s.markSorted).clockIn = s.clockIn := rfl

@[simp] theorem State.markSorted_levelIn (s : State) :
    (s.markSorted).levelIn = s.levelIn := rfl

@[simp] theorem State.markSorted_byteIn (s : State) :
    (s.markSorted).byteIn = s.byteIn := rfl

@[simp] theorem State.markSorted_drawn (s : State) :
    (s.markSorted).drawn = s.drawn := rfl

@[simp] theorem State.markUnsorted_params (s : State) :
    (s.markUnsorted).params = s.params := rfl

@[simp] theorem State.markUnsorted_gainPulses (s : State) :
    (s.markUnsorted).gainPulses = s.gainPulses := rfl

@[simp] theorem State.markUnsorted_capacity (s : State) :
    (s.markUnsorted).capacity = s.capacity := rfl

@[simp] theorem State.markUnsorted_count (s : State) :
    (s.markUnsorted).count = s.count := rfl

@[simp] theorem State.markUnsorted_writeIndex (s : State) :
    (s.markUnsorted).writeIndex = s.writeIndex := rfl

@[simp] theorem State.markUnsorted_sorted (s : State) :
    (s.markUnsorted).sorted = false := rfl

@[simp] theorem State.markUnsorted_buf (s : State) :
    (s.markUnsorted).buf = s.buf := rfl

@[simp] theorem State.markUnsorted_ord (s : State) :
    (s.markUnsorted).ord = s.ord := rfl

@[simp] theorem State.markUnsorted_status (s : State) :
    (s.markUnsorted).status = s.status := rfl

@[simp] theorem State.markUnsorted_result (s : State) :
    (s.markUnsorted).result = s.result := rfl

@[simp] theorem State.markUnsorted_sortSwaps (s : State) :
    (s.markUnsorted).sortSwaps = s.sortSwaps := rfl

@[simp] theorem State.markUnsorted_program (s : State) :
    (s.markUnsorted).program = s.program := rfl

@[simp] theorem State.markUnsorted_cp (s : State) :
    (s.markUnsorted).cp = s.cp := rfl

@[simp] theorem State.markUnsorted_wait (s : State) :
    (s.markUnsorted).wait = s.wait := rfl

@[simp] theorem State.markUnsorted_history (s : State) :
    (s.markUnsorted).history = s.history := rfl

@[simp] theorem State.markUnsorted_clockIn (s : State) :
    (s.markUnsorted).clockIn = s.clockIn := rfl

@[simp] theorem State.markUnsorted_levelIn (s : State) :
    (s.markUnsorted).levelIn = s.levelIn := rfl

@[simp] theorem State.markUnsorted_byteIn (s : State) :
    (s.markUnsorted).byteIn = s.byteIn := rfl

@[simp] theorem State.markUnsorted_drawn (s : State) :
    (s.markUnsorted).drawn = s.drawn := rfl

@[simp] theorem State.withFetchWord_params (nbits w : Nat) (s : State) :
    (s.withFetchWord nbits w).params = s.params := rfl

@[simp] theorem State.withFetchWord_gainPulses (nbits w : Nat) (s : State) :
    (s.withFetchWord nbits w).gainPulses = s.gainPulses := rfl

@[simp] theorem State.withFetchWord_capacity (nbits w : Nat) (s : State) :
    (s.withFetchWord nbits w).capacity = s.capacity := rfl

@[simp] theorem State.withFetchWord_count (nbits w : Nat) (s : State) :
    (s.withFetchWord nbits w).count = s.count := rfl

@[simp] theorem State.withFetchWord_writeIndex (nbits w : Nat) (s : State) :
    (s.withFetchWord nbits w).writeIndex = s.writeIndex := rfl

@[simp] theorem State.withFetchWord_sorted (nbits w : Nat) (s : State) :
    (s.withFetchWord nbits w).sorted = s.sorted := rfl

@[simp] theorem State.withFetchWord_buf (nbits w : Nat) (s : State) :
    (s.withFetchWord nbits w).buf = s.buf := rfl

@[simp] theorem State.withFetchWord_ord (nbits w : Nat) (s : State) :
    (s.withFetchWord nbits w).ord = s.ord := rfl

@[simp] theorem State.withFetchWord_status (nbits w : Nat) (s : State) :
    (s.withFetchWord nbits w).status = s.status := rfl

@[simp] theorem State.withFetchWord_result (nbits w : Nat) (s : State) :
    (s.withFetchWord nbits w).result = s.result := rfl

@[simp] theorem State.withFetchWord_sortSwaps (nbits w : Nat) (s : State) :
    (s.withFetchWord nbits w).sortSwaps = s.sortSwaps := rfl

@[simp] theorem State.withFetchWord_program (nbits w : Nat) (s : State) :
    (s.withFetchWord nbits w).program = placeWord s.program s.cp (BitVec.ofNat 40 (w % 2 ^ nbits)) := rfl

@[simp] theorem State.withFetchWord_cp (nbits w : Nat) (s : State) :
    (s.withFetchWord nbits w).cp = s.cp := rfl

@[simp] theorem State.withFetchWord_wait (nbits w : Nat) (s : State) :
    (s.withFetchWord nbits w).wait = none := rfl

@[simp] theorem State.withFetchWord_history (nbits w : Nat) (s : State) :
    (s.withFetchWord nbits w).history = s.history := rfl

@[simp] theorem State.withFetchWord_clockIn (nbits w : Nat) (s : State) :
    (s.withFetchWord nbits w).clockIn = s.clockIn := rfl

@[simp] theorem State.withFetchWord_levelIn (nbits w : Nat) (s : State) :
    (s.withFetchWord nbits w).levelIn = s.levelIn := rfl

@[simp] theorem State.withFetchWord_byteIn (nbits w : Nat) (s : State) :
    (s.withFetchWord nbits w).byteIn = s.byteIn := rfl

@[simp] theorem State.withFetchWord_drawn (nbits w : Nat) (s : State) :
    (s.withFetchWord nbits w).drawn = s.drawn := rfl

@[simp] theorem State.now_answer (s : State) : s.now.1 = s.clockAnswer := rfl

@[simp] theorem State.pinRead_answer (s : State) : s.pinRead.1 = s.levelAnswer := rfl

@[simp] theorem State.shiftInByte_answer (s : State) : s.shiftInByte.1 = s.byteAnswer := rfl

end Sys2Proof.Machine
end

