-- ==== Sys2Proof/Laws/Ops.lean ====
section
/-!
SUPPORT. What the named operations do, once each: the host primitives as record updates, and the reads
and writes of BUF and ORD as "answers exactly this if the index is in range, else this fault".
-/

namespace Sys2Proof.Machine

theorem State.now_eq (s : State) :
    s.now = (s.clockAnswer,
      { s with
        clockIn := s.clockIn.tail
        drawn := s.drawn + 1
        history := s.history ++ [.now s.clockAnswer] }) := rfl

theorem State.pollNow_eq (start timeout : Word) (patience : Nat) (s : State) :
    s.pollNow start timeout patience = (s.pollAnswer start timeout patience,
      { s with
        clockIn := s.clockIn.tail
        drawn := s.drawn + 1
        history := s.history ++ [.now (s.pollAnswer start timeout patience)] }) := rfl

theorem State.pinRead_eq (s : State) :
    s.pinRead = (s.levelAnswer,
      { s with
        levelIn := s.levelIn.tail
        drawn := s.drawn + 1
        history := s.history ++ [.pinRead s.params.dataPin s.levelAnswer] }) := rfl

theorem State.shiftInByte_eq (s : State) :
    s.shiftInByte = (s.byteAnswer,
      { s with
        byteIn := s.byteIn.tail
        drawn := s.drawn + 1
        history := s.history ++ [.shiftInByte s.params.dataPin s.params.clockPin s.byteAnswer] }) := rfl

/-- The answer to the next `Now()` is the answer number 0. -/
theorem State.clockAnswer_eq_clockAt (s : State) : s.clockAnswer = s.clockAt 0 0 := by
  simp [State.clockAnswer, State.clockAt, List.head?_eq_getElem?]

theorem State.levelAnswer_eq_levelAt (s : State) : s.levelAnswer = s.levelAt 0 0 := by
  simp [State.levelAnswer, State.levelAt, List.head?_eq_getElem?]

theorem State.byteAnswer_eq_byteAt (s : State) : s.byteAnswer = s.byteAt 0 0 := by
  simp [State.byteAnswer, State.byteAt, List.head?_eq_getElem?]

/-- A host with patience left is under no duty: its answer is that of any `Now()`. -/
theorem State.pollAnswer_succ (start timeout : Word) (p : Nat) (s : State) :
    s.pollAnswer start timeout (p + 1) = s.clockAt 0 0 := by
  simp [State.pollAnswer, State.clockAt, List.head?_eq_getElem?]

/-- The first iteration of a wait is under no duty. -/
@[simp] theorem State.pollAnswer_fresh (start timeout : Word) (s t : State) :
    s.pollAnswer start timeout t.freshPatience = s.clockAt 0 0 :=
  State.pollAnswer_succ start timeout _ s

/-- A queue entry is the answer to a wait's `Now()`, whatever the patience. -/
theorem State.pollAnswer_cons {start timeout : Word} {p : Nat} {s : State} {t : Word} {rest : List Word}
    (h : s.clockIn = t :: rest) : s.pollAnswer start timeout p = t := by
  simp [State.pollAnswer, h]

/-- A late clock value is at or past the deadline, by exactly as much as its free part says. -/
theorem lateClock_elapsed (start timeout v : Word) :
    (lateClock start timeout v - start).toNat = timeout.toNat + v.toNat % (2 ^ 32 - timeout.toNat) := by
  have ht := timeout.isLt
  have hm : v.toNat % (2 ^ 32 - timeout.toNat) < 2 ^ 32 - timeout.toNat := Nat.mod_lt _ (by omega)
  have he : lateClock start timeout v - start =
      timeout + BitVec.ofNat 32 (v.toNat % (2 ^ 32 - timeout.toNat)) := by
    unfold lateClock u32
    generalize BitVec.ofNat 32 _ = x
    bv_omega
  rw [he, BitVec.toNat_add, BitVec.toNat_ofNat]
  generalize v.toNat % (2 ^ 32 - timeout.toNat) = r at *
  omega

/-- The duty: with nothing queued and no patience left, the answer is at or past the deadline. -/
theorem State.pollAnswer_late {start timeout : Word} {s : State} (h : s.clockIn = []) :
    timeout.toNat ≤ (s.pollAnswer start timeout 0 - start).toNat := by
  have hp : s.pollAnswer start timeout 0 = lateClock start timeout (Config.freeClock s.drawn) := by
    simp [State.pollAnswer, h]
  rw [hp, lateClock_elapsed]
  omega

/-- A queue entry is the answer, whatever the free values are. -/
theorem State.clockAnswer_cons {s : State} {t : Word} {rest : List Word} (h : s.clockIn = t :: rest) :
    s.clockAnswer = t := by
  simp [State.clockAnswer, h]

theorem State.levelAnswer_cons {s : State} {l : Level} {rest : List Level} (h : s.levelIn = l :: rest) :
    s.levelAnswer = l := by
  simp [State.levelAnswer, h]

theorem State.byteAnswer_cons {s : State} {b : Byte} {rest : List Byte} (h : s.byteIn = b :: rest) :
    s.byteAnswer = b := by
  simp [State.byteAnswer, h]

/-- A read of an array answers the entry exactly if the index is in the range in use and the entry
exists. -/
theorem readEntry_ok {α : Type} {a : Storage} {l : List α} {c i : Nat} {v : α} :
    readEntry a l c i = .ok v ↔ i < c ∧ l[i]? = some v := by
  unfold readEntry
  split
  · rename_i w hw
    split <;> simp_all
  · simp_all

/-- A read of an array that does not answer faults with the index. -/
theorem readEntry_error {α : Type} {a : Storage} {l : List α} {c i : Nat} {f : Fault}
    (h : readEntry a l c i = .error f) :
    f = .indexOutOfRange a i ∧ (c ≤ i ∨ l.length ≤ i) := by
  unfold readEntry at h
  split at h
  · split at h
    · cases h
    · cases h
      exact ⟨rfl, .inl (by omega)⟩
  · cases h
    rename_i hn
    exact ⟨rfl, .inr (by simpa using hn)⟩

/-- A write of an array replaces the entry exactly if the index is in the range in use and the entry
exists. -/
theorem writeEntry_ok {α : Type} {a : Storage} {l l' : List α} {c i : Nat} {v : α} :
    writeEntry a l c i v = .ok l' ↔ (i < c ∧ i < l.length) ∧ l' = l.set i v := by
  unfold writeEntry
  split
  · rename_i h
    simp [h.1, h.2, eq_comm]
  · rename_i h
    simp [h]

theorem State.bufRead_ok {s : State} {i : Nat} {v : Word} :
    s.bufRead i = .ok v ↔ i < s.capacity ∧ s.buf[i]? = some v :=
  readEntry_ok

theorem State.ordRead_ok {s : State} {i v : Nat} :
    s.ordRead i = .ok v ↔ i < s.capacity ∧ s.ord[i]? = some v :=
  readEntry_ok

theorem State.bufWrite_ok {s t : State} {i : Nat} {v : Word} :
    s.bufWrite i v = .ok t ↔ (i < s.capacity ∧ i < s.buf.length) ∧ t = { s with buf := s.buf.set i v } := by
  unfold State.bufWrite writeEntry
  by_cases h : i < s.capacity ∧ i < s.buf.length
  · simp [h, eq_comm]
  · simp [h]

theorem State.ordWrite_ok {s t : State} {i v : Nat} :
    s.ordWrite i v = .ok t ↔ (i < s.capacity ∧ i < s.ord.length) ∧ t = { s with ord := s.ord.set i v } := by
  unfold State.ordWrite writeEntry
  by_cases h : i < s.capacity ∧ i < s.ord.length
  · simp [h, eq_comm]
  · simp [h]

/-- `BUF[ORD[k]]` is read exactly if both indexes are in range, and is then `State.valueOf`. -/
theorem State.valueAt_ok {s : State} {k : Nat} {v : Word} :
    s.valueAt k = .ok v ↔
      ∃ i, (k < s.capacity ∧ s.ord[k]? = some i) ∧ i < s.capacity ∧ s.buf[i]? = some v := by
  unfold State.valueAt
  cases h : s.ordRead k with
  | ok i =>
    have hi := State.ordRead_ok.mp h
    simp only [State.bufRead_ok]
    constructor
    · exact fun hv => ⟨i, hi, hv⟩
    · rintro ⟨j, hj, hv⟩
      have : i = j := Option.some.inj (hi.2.symm.trans hj.2)
      exact this ▸ hv
  | error f =>
    simp only [reduceCtorEq, false_iff]
    rintro ⟨i, hi, -⟩
    rw [State.ordRead_ok.mpr hi] at h
    cases h

/-- The identity on `0..CAPACITY-1` is written exactly if ORD is that long. -/
theorem State.ordIdentity_ok {s t : State} :
    s.ordIdentity = .ok t ↔
      s.capacity ≤ s.ord.length ∧
        t = { s with ord := List.range s.capacity ++ s.ord.drop s.capacity } := by
  unfold State.ordIdentity
  by_cases h : s.capacity ≤ s.ord.length
  · simp [h, eq_comm]
  · simp [h]

/-- What a meaning answers from its steps: a next state or a fault, never a refusal. -/
theorem answer_eq_next {x : Except Fault State} {t : State} : answer x = .next t ↔ x = .ok t := by
  cases x <;> simp [answer]

/-- A command that is not held by a wait completes. -/
theorem State.settle_of_wait_none {s : State} (w : CommandWord) (h : s.wait = none) :
    s.settle w = s.complete w := by
  simp [State.settle, h]

theorem State.settle_of_wait_some {s : State} {wait : Wait} (w : CommandWord)
    (h : s.wait = some wait) : s.settle w = s := by
  simp [State.settle, h]

/-- Settling answers a next state exactly if the command does. -/
theorem settleAnswer_eq_next {w : CommandWord} {x : Answer} {t : State} :
    settleAnswer w x = .next t ↔ ∃ u, x = .next u ∧ t = u.settle w := by
  cases x <;> simp [settleAnswer, eq_comm]

/-- The word placed at the position is the one fetched there. -/
theorem placeWord_getElem? (program : List CommandWord) (cp : Nat) (w : CommandWord) :
    (placeWord program cp w)[cp]? = some w := by
  unfold placeWord
  have hlen : (program.take cp ++ List.replicate (cp - program.length) 0).length = cp := by
    simp
    omega
  rw [List.getElem?_append_right (by omega), hlen]
  simp

end Sys2Proof.Machine
end

