-- ==== Sys2Proof/Laws/Sort.lean ====
section
/-!
SUPPORT. The exchange sort of 41_filter R150: what the engine does at positions of ORD is what an exchange
sort does on a list of indices with a key, and that sort permutes its prefix and leaves it in order.
-/

namespace Sys2Proof.Machine

/-- A pass of `n` comparisons from the front of a list: the number of exchanges, and the list. -/
def bubblePass (key : Nat → Int) : Nat → List Nat → Nat × List Nat
  | 0, l => (0, l)
  | _ + 1, [] => (0, [])
  | _ + 1, [a] => (0, [a])
  | n + 1, a :: b :: rest =>
    if key b < key a then
      ((bubblePass key n (a :: rest)).1 + 1, b :: (bubblePass key n (a :: rest)).2)
    else ((bubblePass key n (b :: rest)).1, a :: (bubblePass key n (b :: rest)).2)

/-- The passes that remain, `n` of them, each one comparison shorter; one without exchange ends the sort. -/
def bubbleSort (key : Nat → Int) : Nat → List Nat → Nat × List Nat
  | 0, l => (0, l)
  | n + 1, l =>
    if (bubblePass key (n + 1) l).1 = 0 then (0, (bubblePass key (n + 1) l).2)
    else
      ((bubblePass key (n + 1) l).1 + (bubbleSort key n (bubblePass key (n + 1) l).2).1,
        (bubbleSort key n (bubblePass key (n + 1) l).2).2)

/-- The value an index of ORD names, as a signed integer. -/
def State.keyOf (s : State) (i : Nat) : Int :=
  (s.buf.getD i 0).toInt

/-- The index names an entry in the range in use. -/
def State.InUse (s : State) (i : Nat) : Prop :=
  i < s.capacity ∧ i < s.buf.length

theorem State.valueAt_of_inUse {s : State} {k i : Nat} (hk : k < s.capacity) (hi : s.ord[k]? = some i)
    (hu : s.InUse i) : s.valueAt k = .ok (s.buf.getD i 0) := by
  refine State.valueAt_ok.mpr ⟨i, ⟨hk, hi⟩, hu.1, ?_⟩
  simp [hu.2]

/-- One comparison of the sort (41_filter R150), on the two entries it looks at. -/
theorem State.compareExchange_eq {s : State} {pre post : List Nat} {a b : Nat}
    (hord : s.ord = pre ++ a :: b :: post) (hj : pre.length + 1 < s.capacity) (ha : s.InUse a)
    (hb : s.InUse b) :
    s.compareExchange (pre.length + 1) =
      .ok (if s.keyOf b < s.keyOf a then (1, { s with ord := pre ++ b :: a :: post }) else (0, s)) := by
  have ea : s.ord[pre.length]? = some a := by simp [hord]
  have eb : s.ord[pre.length + 1]? = some b := by simp [hord]
  have va := State.valueAt_of_inUse (by omega) ea ha
  have vb := State.valueAt_of_inUse hj eb hb
  have ra : s.ordRead pre.length = .ok a := State.ordRead_ok.mpr ⟨by omega, ea⟩
  have rb : s.ordRead (pre.length + 1) = .ok b := State.ordRead_ok.mpr ⟨hj, eb⟩
  have hlen : s.ord.length = pre.length + (post.length + 2) := by simp [hord]
  have w1 : s.ordWrite pre.length b = .ok { s with ord := s.ord.set pre.length b } :=
    State.ordWrite_ok.mpr ⟨⟨by omega, by omega⟩, rfl⟩
  have w2 : State.ordWrite (pre.length + 1) a { s with ord := s.ord.set pre.length b } =
      .ok { s with ord := (s.ord.set pre.length b).set (pre.length + 1) a } :=
    State.ordWrite_ok.mpr ⟨⟨hj, by simp [hlen]⟩, rfl⟩
  have hset : (s.ord.set pre.length b).set (pre.length + 1) a = pre ++ b :: a :: post := by
    simp [hord]
  rw [hset] at w2
  simp only [State.compareExchange, Nat.add_sub_cancel, va, vb, ra, rb, w1, w2, bind, Except.bind]
  by_cases hlt : s.keyOf b < s.keyOf a
  · have ho : outOfOrder (s.buf.getD a 0) (s.buf.getD b 0) = true := by
      simpa [outOfOrder, s32, State.keyOf] using hlt
    simp only [ho, hlt, if_true]
  · have ho : outOfOrder (s.buf.getD a 0) (s.buf.getD b 0) = false := by
      simpa [outOfOrder, s32, State.keyOf] using hlt
    simp only [ho, hlt, if_false, Bool.false_eq_true]

/-- A pass of the engine is a pass on the list from its first position on. -/
theorem State.sortPass_eq (n : Nat) {s : State} {pre l : List Nat} (hord : s.ord = pre ++ l)
    (hlen : n < l.length) (hcap : pre.length + n < s.capacity) (huse : ∀ i ∈ l.take (n + 1), s.InUse i) :
    s.sortPass n (pre.length + 1) =
      .ok ((bubblePass s.keyOf n l).1, { s with ord := pre ++ (bubblePass s.keyOf n l).2 }) := by
  induction n generalizing s pre l with
  | zero => simp [State.sortPass, bubblePass, ← hord]
  | succ n ih =>
    obtain _ | ⟨a, _ | ⟨b, rest⟩⟩ := l
    · simp at hlen
    · simp at hlen
    · have hc := State.compareExchange_eq hord (by omega) (huse a (by simp)) (huse b (by simp))
      by_cases hlt : s.keyOf b < s.keyOf a
      · have hrec := ih (s := { s with ord := pre ++ b :: a :: rest }) (pre := pre ++ [b])
          (l := a :: rest) (by simp) (by simpa using hlen) (by simp; omega)
          (fun i hi => huse i (by simp at hi ⊢; tauto))
        rw [if_pos hlt] at hc
        simp only [List.length_append, List.length_singleton] at hrec
        have hkey : State.keyOf { s with ord := pre ++ b :: a :: rest } = s.keyOf := rfl
        simp only [State.sortPass, hc, hrec, hkey, bind, Except.bind, bubblePass, if_pos hlt]
        simp [Nat.add_comm]
      · have hrec := ih (s := s) (pre := pre ++ [a]) (l := b :: rest) (by simp [hord])
          (by simpa using hlen) (by simp; omega) (fun i hi => huse i (by simp at hi ⊢; tauto))
        rw [if_neg hlt] at hc
        simp only [List.length_append, List.length_singleton] at hrec
        simp only [State.sortPass, hc, hrec, bind, Except.bind, bubblePass, if_neg hlt]
        simp

theorem bubblePass_perm (key : Nat → Int) (n : Nat) (l : List Nat) : (bubblePass key n l).2.Perm l := by
  induction n generalizing l with
  | zero => exact .refl _
  | succ n ih =>
    obtain _ | ⟨a, _ | ⟨b, rest⟩⟩ := l
    · exact .refl _
    · exact .refl _
    · unfold bubblePass
      split
      · exact ((ih (a :: rest)).cons b).trans (.swap a b rest)
      · exact (ih (b :: rest)).cons a

/-- A pass touches the entries it compares, and no other. -/
theorem bubblePass_append (key : Nat → Int) (n : Nat) (l tail : List Nat) (h : l.length = n + 1) :
    bubblePass key n (l ++ tail) =
      ((bubblePass key n l).1, (bubblePass key n l).2 ++ tail) := by
  induction n generalizing l with
  | zero => rfl
  | succ n ih =>
    obtain _ | ⟨a, _ | ⟨b, rest⟩⟩ := l
    · simp at h
    · simp at h
    · have h1 := ih (a :: rest) (by simpa using h)
      have h2 := ih (b :: rest) (by simpa using h)
      simp only [List.cons_append] at h1 h2 ⊢
      unfold bubblePass
      split
      · simp [h1]
      · simp [h2]

/-- A pass brings a greatest entry to its end. -/
theorem bubblePass_last (key : Nat → Int) (n : Nat) (l : List Nat) (h : l.length = n + 1) :
    ∃ front x, (bubblePass key n l).2 = front ++ [x] ∧ front.length = n ∧ ∀ y ∈ front, key y ≤ key x := by
  induction n generalizing l with
  | zero =>
    obtain ⟨x, rfl⟩ := List.length_eq_one_iff.mp h
    exact ⟨[], x, rfl, rfl, by simp⟩
  | succ n ih =>
    obtain _ | ⟨a, _ | ⟨b, rest⟩⟩ := l
    · simp at h
    · simp at h
    · unfold bubblePass
      split
      · rename_i hlt
        obtain ⟨front, x, he, hl, hle⟩ := ih (a :: rest) (by simpa using h)
        refine ⟨b :: front, x, by simp [he], by simp [hl], ?_⟩
        have hx : key a ≤ key x := by
          have : a ∈ front ++ [x] := he ▸ (bubblePass_perm key n (a :: rest)).mem_iff.mpr (by simp)
          rcases List.mem_append.mp this with hf | hf
          · exact hle a hf
          · rw [List.mem_singleton.mp hf]
        intro y hy
        rcases List.mem_cons.mp hy with rfl | hy
        · omega
        · exact hle y hy
      · rename_i hnl
        obtain ⟨front, x, he, hl, hle⟩ := ih (b :: rest) (by simpa using h)
        refine ⟨a :: front, x, by simp [he], by simp [hl], ?_⟩
        have hx : key b ≤ key x := by
          have : b ∈ front ++ [x] := he ▸ (bubblePass_perm key n (b :: rest)).mem_iff.mpr (by simp)
          rcases List.mem_append.mp this with hf | hf
          · exact hle b hf
          · rw [List.mem_singleton.mp hf]
        intro y hy
        rcases List.mem_cons.mp hy with rfl | hy
        · omega
        · exact hle y hy

/-- A pass without exchange found its entries in order and left them. -/
theorem bubblePass_zero (key : Nat → Int) (n : Nat) (l : List Nat) (h : l.length = n + 1)
    (hz : (bubblePass key n l).1 = 0) :
    (bubblePass key n l).2 = l ∧ l.Pairwise (fun a b => key a ≤ key b) := by
  induction n generalizing l with
  | zero =>
    obtain ⟨x, rfl⟩ := List.length_eq_one_iff.mp h
    exact ⟨rfl, by simp⟩
  | succ n ih =>
    obtain _ | ⟨a, _ | ⟨b, rest⟩⟩ := l
    · simp at h
    · simp at h
    · unfold bubblePass at hz ⊢
      split at hz
      · simp at hz
      · rename_i hnl
        obtain ⟨he, hs⟩ := ih (b :: rest) (by simpa using h) hz
        rw [if_neg hnl]
        refine ⟨by simp [he], List.pairwise_cons.mpr ⟨?_, hs⟩⟩
        intro y hy
        rcases List.mem_cons.mp hy with rfl | hy
        · omega
        · have := (List.pairwise_cons.mp hs).1 y hy
          omega

theorem bubbleSort_append (key : Nat → Int) (n : Nat) (l tail : List Nat) (h : l.length = n + 1) :
    bubbleSort key n (l ++ tail) =
      ((bubbleSort key n l).1, (bubbleSort key n l).2 ++ tail) := by
  induction n generalizing l tail with
  | zero => rfl
  | succ n ih =>
    obtain ⟨front, x, he, hl, -⟩ := bubblePass_last key (n + 1) l h
    unfold bubbleSort
    rw [bubblePass_append key (n + 1) l tail h]
    split
    · rfl
    · have h1 := ih front (x :: tail) hl
      have h2 := ih front [x] hl
      simp [he, h1, h2]

theorem bubbleSort_perm (key : Nat → Int) (n : Nat) (l : List Nat) : (bubbleSort key n l).2.Perm l := by
  induction n generalizing l with
  | zero => exact .refl _
  | succ n ih =>
    unfold bubbleSort
    split
    · exact bubblePass_perm ..
    · exact (ih _).trans (bubblePass_perm ..)

/-- The exchange sort leaves its list in order (41_filter R150, R153). -/
theorem bubbleSort_ordered (key : Nat → Int) (n : Nat) (l : List Nat) (h : l.length = n + 1) :
    (bubbleSort key n l).2.Pairwise (fun a b => key a ≤ key b) := by
  induction n generalizing l with
  | zero =>
    obtain ⟨x, rfl⟩ := List.length_eq_one_iff.mp h
    simp [bubbleSort]
  | succ n ih =>
    obtain ⟨front, x, he, hl, hle⟩ := bubblePass_last key (n + 1) l h
    unfold bubbleSort
    split
    · rename_i hz
      obtain ⟨h1, h2⟩ := bubblePass_zero key (n + 1) l h hz
      exact h1.symm ▸ h2
    · rw [he, bubbleSort_append key n front [x] hl]
      refine List.pairwise_append.mpr ⟨ih front hl, by simp, ?_⟩
      intro a ha b hb
      rw [List.mem_singleton.mp hb]
      exact hle a ((bubbleSort_perm key n front).mem_iff.mp ha)

/-- The passes of the engine are the passes on the list ORD. -/
theorem State.sortPasses_eq (n : Nat) {s : State} (hlen : n < s.ord.length) (hcap : n < s.capacity)
    (huse : ∀ i ∈ s.ord.take (n + 1), s.InUse i) :
    s.sortPasses n =
      .ok ((bubbleSort s.keyOf n s.ord).1, { s with ord := (bubbleSort s.keyOf n s.ord).2 }) := by
  induction n generalizing s with
  | zero => rfl
  | succ n ih =>
    have hl : (s.ord.take (n + 2)).length = n + 2 := by simp; omega
    have hpass := State.sortPass_eq (n + 1) (s := s) (pre := []) (l := s.ord) rfl hlen (by simpa using hcap) huse
    simp only [List.length_nil, Nat.zero_add, List.nil_append] at hpass
    have happ := bubblePass_append s.keyOf (n + 1) _ (s.ord.drop (n + 2)) hl
    rw [List.take_append_drop] at happ
    have hmem : ∀ i ∈ (bubblePass s.keyOf (n + 1) s.ord).2.take (n + 1), s.InUse i := by
      intro i hi
      have hperm := bubblePass_perm s.keyOf (n + 1) (s.ord.take (n + 2))
      have hi2 := List.take_subset_take_left _ (Nat.le_succ (n + 1)) hi
      rw [happ, List.take_append_of_le_length (by rw [hperm.length_eq, hl]),
        List.take_of_length_le (by rw [hperm.length_eq, hl])] at hi2
      exact huse i (hperm.mem_iff.mp hi2)
    have hrec := ih (s := { s with ord := (bubblePass s.keyOf (n + 1) s.ord).2 })
      (by simp only [(bubblePass_perm s.keyOf (n + 1) s.ord).length_eq]; omega) (by simp only; omega) hmem
    have hkey : State.keyOf { s with ord := (bubblePass s.keyOf (n + 1) s.ord).2 } = s.keyOf := rfl
    simp only [State.sortPasses, hpass, bind, Except.bind, bubbleSort]
    split
    · rfl
    · simp only [hrec, hkey]

end Sys2Proof.Machine
end

