-- ==== Sys2Proof/Laws/Filter.lean ====
section
/-!
SUPPORT. What the filter's steps do, each once: the clear, the configuration and the add as record
updates; the sort and the median step by what they leave unchanged, and by what they leave in order.
-/

namespace Sys2Proof.Machine

/-- `clear_step()` (41_filter R143). -/
theorem State.clearStep_ok {s t : State} :
    s.clearStep = .ok t ↔
      s.capacity ≤ s.ord.length ∧
        t = { s with
          count := 0
          writeIndex := 0
          sorted := false
          ord := List.range s.capacity ++ s.ord.drop s.capacity } := by
  simp [State.clearStep, State.ordIdentity_ok, State.markUnsorted]

/-- The construction of the filter with a clamped capacity (41_filter R142). -/
theorem State.reconfigure_ok {s t : State} {req : Word} :
    s.reconfigure req = .ok t ↔
      clamp s.params req ≤ s.ord.length ∧
        t = { s with
          capacity := clamp s.params req
          count := 0
          writeIndex := 0
          sorted := false
          ord := List.range (clamp s.params req) ++ s.ord.drop (clamp s.params req) } := by
  simp [State.reconfigure, State.clearStep_ok]

/-- `add_step(v)` (41_filter R146). -/
theorem State.addStep_ok {s t : State} {v : Word} :
    s.addStep v = .ok t ↔
      (s.writeIndex < s.capacity ∧ s.writeIndex < s.buf.length) ∧
        t = { s with
          buf := s.buf.set s.writeIndex v
          writeIndex := (s.writeIndex + 1) % s.capacity
          count := if s.count < s.capacity then s.count + 1 else s.count
          sorted := false } := by
  unfold State.addStep
  cases h : s.bufWrite s.writeIndex v with
  | ok s1 =>
    obtain ⟨hr, rfl⟩ := State.bufWrite_ok.mp h
    simp [hr, State.markUnsorted, eq_comm]
  | error f =>
    simp only [reduceCtorEq, false_iff]
    rintro ⟨hr, -⟩
    rw [State.bufWrite_ok.mpr ⟨hr, rfl⟩] at h
    cases h

/-- The clamp's range (41_filter R141). -/
theorem clamp_range {p : Params} (h : p.wellFormed = true) (req : Word) :
    p.minSize ≤ clamp p req ∧ clamp p req ≤ p.maxSize := by
  simp only [Params.wellFormed, Bool.and_eq_true, decide_eq_true_eq] at h
  unfold clamp s32
  split
  · omega
  · split <;> omega

/-- One comparison writes ORD and nothing else (41_filter R150, R157). -/
theorem State.compareExchange_frame {s t : State} {j x : Nat}
    (h : s.compareExchange j = .ok (x, t)) : t = { s with ord := t.ord } := by
  simp only [State.compareExchange, bind, Except.bind] at h
  split at h
  · cases h
  split at h
  · cases h
  split at h
  · split at h
    · cases h
    split at h
    · cases h
    split at h
    · cases h
    rename_i u hu
    split at h
    · cases h
    rename_i w hw
    cases h
    obtain ⟨-, rfl⟩ := State.ordWrite_ok.mp hu
    obtain ⟨-, rfl⟩ := State.ordWrite_ok.mp hw
    rfl
  · cases h
    rfl

theorem State.sortPass_frame (n : Nat) {s t : State} {j x : Nat}
    (h : s.sortPass n j = .ok (x, t)) : t = { s with ord := t.ord } := by
  induction n generalizing s t j x with
  | zero =>
    cases h
    rfl
  | succ n ih =>
    simp only [State.sortPass, bind, Except.bind] at h
    split at h
    · cases h
    rename_i p hp
    obtain ⟨x1, s1⟩ := p
    split at h
    · cases h
    rename_i q hq
    obtain ⟨x2, s2⟩ := q
    cases h
    have h1 := State.compareExchange_frame hp
    have h2 := ih hq
    rw [h1] at h2
    exact h2

theorem State.sortPasses_frame (n : Nat) {s t : State} {x : Nat}
    (h : s.sortPasses n = .ok (x, t)) : t = { s with ord := t.ord } := by
  induction n generalizing s t x with
  | zero =>
    cases h
    rfl
  | succ n ih =>
    simp only [State.sortPasses, bind, Except.bind] at h
    split at h
    · cases h
    rename_i p hp
    obtain ⟨x1, s1⟩ := p
    have h1 := State.sortPass_frame _ hp
    split at h
    · cases h
      exact h1
    · split at h
      · cases h
      rename_i q hq
      obtain ⟨x2, s2⟩ := q
      cases h
      have h2 := ih hq
      rw [h1] at h2
      exact h2

/-- The sort writes ORD and nothing else, whatever the state (41_filter R150, R157). -/
theorem State.sortStep_frame {s t : State} {x : Nat} (h : s.sortStep = .ok (x, t)) :
    t = { s with ord := t.ord } :=
  State.sortPasses_frame _ h

/-- The lazy sort writes ORD and SORT_SWAPS and nothing else. -/
theorem State.ensureSorted_frame {s t : State} (h : s.ensureSorted = .ok t) :
    t = { s with ord := t.ord, sortSwaps := t.sortSwaps } := by
  simp only [State.ensureSorted, bind, Except.bind] at h
  split at h
  · cases h
    rfl
  · split at h
    · cases h
    rename_i p hp
    obtain ⟨x, s1⟩ := p
    cases h
    have h1 := State.sortStep_frame hp
    rw [h1]

/-- The median step writes ORD, SORTED and SORT_SWAPS and nothing else; it raises EmptyFilter exactly
on COUNT = 0 and then writes nothing (41_filter R148, R149). -/
theorem State.medianStep_frame {s t : State} {m : Except Raise Word}
    (h : s.medianStep = .ok (m, t)) :
    (s.count = 0 ∧ m = .error .emptyFilter ∧ t = s) ∨
      (s.count ≠ 0 ∧ (∃ v, m = .ok v) ∧
        t = { s with ord := t.ord, sorted := true, sortSwaps := t.sortSwaps }) := by
  simp only [State.medianStep, bind, Except.bind] at h
  split at h
  · rename_i hc
    cases h
    exact .inl ⟨hc, rfl, rfl⟩
  · rename_i hc
    split at h
    · cases h
    rename_i s1 h1
    split at h
    · cases h
    rename_i v hv
    cases h
    refine .inr ⟨hc, ⟨v, rfl⟩, ?_⟩
    have hf := State.ensureSorted_frame h1
    simp only [State.markSorted_ord, State.markSorted_sortSwaps]
    rw [hf]
    rfl

/-- The end of a median command writes ORD, SORTED, SORT_SWAPS, STATUS and RESULT and nothing else. -/
theorem State.finishMedian_frame {s t : State} (h : s.finishMedian = .ok t) :
    t = { s with
      ord := t.ord
      sorted := t.sorted
      sortSwaps := t.sortSwaps
      status := t.status
      result := t.result } := by
  simp only [State.finishMedian, bind, Except.bind] at h
  split at h
  · cases h
  rename_i p hp
  obtain ⟨m, s1⟩ := p
  cases h
  rcases State.medianStep_frame hp with ⟨-, rfl, rfl⟩ | ⟨-, ⟨v, rfl⟩, hs⟩
  · rfl
  · rw [hs]
    rfl

/-- Every index in the prefix in use names an entry in use (20_memory R52). -/
theorem State.FilterInv.inUse {s : State} (h : s.FilterInv) :
    ∀ i ∈ s.ord.take s.count, s.InUse i := by
  intro i hi
  have hr := List.mem_range.mp (h.ord_prefix.mem_iff.mp hi)
  have h1 := h.count_le
  have h2 := h.capacity_le
  have h3 := h.buf_length
  exact ⟨by omega, by omega⟩

/-- The sort of a well formed filter (41_filter R150, R153): it answers, permutes the prefix in use, leaves
the rest of ORD, and leaves the prefix in order. -/
theorem State.FilterInv.sortStep {s : State} (h : s.FilterInv) (hc : 0 < s.count) :
    s.sortStep =
        .ok ((bubbleSort s.keyOf (s.count - 1) (s.ord.take s.count)).1,
          { s with
            ord := (bubbleSort s.keyOf (s.count - 1) (s.ord.take s.count)).2 ++ s.ord.drop s.count }) := by
  have h1 := h.count_le
  have h2 := h.capacity_le
  have h3 := h.ord_length
  have e : s.count - 1 + 1 = s.count := by omega
  have hp := State.sortPasses_eq (s := s) (s.count - 1) (by omega) (by omega)
    (by rw [e]; exact h.inUse)
  have hl : (s.ord.take s.count).length = s.count - 1 + 1 := by simp; omega
  have ha := bubbleSort_append s.keyOf (s.count - 1) _ (s.ord.drop s.count) hl
  rw [List.take_append_drop] at ha
  rw [State.sortStep, hp, ha]

/-- `BUF[ORD[k]]` of a well formed filter is read, for every position in use. -/
theorem State.FilterInv.valueAt {s : State} (h : s.FilterInv) {k : Nat} (hk : k < s.count) :
    ∃ i, s.ord[k]? = some i ∧ i < s.count ∧ s.valueAt k = .ok (s.buf.getD i 0) := by
  have h1 := h.count_le
  have h2 := h.capacity_le
  have h3 := h.ord_length
  have hlen : k < s.ord.length := by omega
  have hmem : s.ord[k] ∈ s.ord.take s.count :=
    List.mem_take_iff_getElem.mpr ⟨k, by omega, rfl⟩
  refine ⟨s.ord[k], by simp [hlen], List.mem_range.mp (h.ord_prefix.mem_iff.mp hmem), ?_⟩
  exact State.valueAt_of_inUse (by omega) (by simp [hlen]) (h.inUse _ hmem)

end Sys2Proof.Machine
end

