-- ==== Sys2Proof/Laws/Reader.lean ====
section
/-!
SUPPORT. What the reader's steps do: the gain pulses, one reading, one iteration of the ready wait, and
READ from an iteration on, each once.
-/

namespace Sys2Proof.Machine

theorem pulseEvents_succ (clock : PinId) (n : Nat) :
    pulseEvents clock (n + 1) =
      [.pinWrite clock .high, .pinWrite clock .low] ++ pulseEvents clock n := by
  simp [pulseEvents, List.replicate_succ]

/-- The pulses write the history and nothing else (40_reader R103, R111). -/
theorem State.pulses_eq (n : Nat) (s : State) :
    s.pulses n = { s with history := s.history ++ pulseEvents s.params.clockPin n } := by
  induction n generalizing s with
  | zero => simp [State.pulses, pulseEvents]
  | succ n ih =>
    rw [State.pulses, ih, pulseEvents_succ]
    simp [State.pulse, State.writeClock, State.record]

/-- A later answer after one `Now()`: one clock answer fewer, one draw more. -/
theorem State.clockAt_now (s : State) (k d : Nat) :
    (s.now.2).clockAt k d = s.clockAt (k + 1) (d + 1) := by
  simp [State.clockAt, Nat.add_comm, Nat.add_left_comm]

theorem State.levelAt_now (s : State) (k d : Nat) :
    (s.now.2).levelAt k d = s.levelAt k (d + 1) := by
  simp [State.levelAt, Nat.add_comm, Nat.add_left_comm]

theorem State.byteAt_now (s : State) (k d : Nat) :
    (s.now.2).byteAt k d = s.byteAt k (d + 1) := by
  simp [State.byteAt, Nat.add_comm, Nat.add_left_comm]

/-- The reading of three bytes: its value, and what it changes (40_reader R110 to R112). -/
theorem State.takeReading_eq (s : State) :
    s.takeReading =
      (assemble (s.byteAt 0 0) (s.byteAt 1 1) (s.byteAt 2 2),
        { s with
          byteIn := s.byteIn.drop 3
          drawn := s.drawn + 3
          history := s.history ++
            [.shiftInByte s.params.dataPin s.params.clockPin (s.byteAt 0 0),
              .shiftInByte s.params.dataPin s.params.clockPin (s.byteAt 1 1),
              .shiftInByte s.params.dataPin s.params.clockPin (s.byteAt 2 2)] ++
            pulseEvents s.params.clockPin s.gainPulses.toNat }) := by
  have h3 : s.byteIn.tail.tail.tail = s.byteIn.drop 3 := by
    rcases s.byteIn with _ | ⟨_, _ | ⟨_, _ | ⟨_, _⟩⟩⟩ <;> rfl
  simp [State.takeReading, State.shiftInByte_eq, State.pulses_eq, State.byteAnswer, State.byteAt,
    List.head?_eq_getElem?, h3]

/-- A later sample after an iteration's `Now()`: one draw more. -/
theorem State.levelAt_pollNow (start timeout : Word) (p : Nat) (s : State) (k d : Nat) :
    (s.pollNow start timeout p).2.levelAt k d = s.levelAt k (d + 1) := by
  simp [State.pollNow_eq, State.levelAt, Nat.add_comm, Nat.add_left_comm]

/-- The deadline check of 40_reader R109. -/
theorem deadlineReached_eq (start timeout t : Word) :
    deadlineReached start timeout t = true ↔ timeout.toNat ≤ (t - start).toNat := by
  unfold deadlineReached elapsed u32
  split
  · rename_i h
    exact iff_of_false Bool.false_ne_true (Nat.not_le.mpr h)
  · rename_i h
    exact iff_of_true rfl (Nat.not_lt.mp h)

/-- The iteration whose deadline check fires (40_reader R109): one clock read, nothing else. -/
theorem State.poll_deadline {s : State} {start timeout : Word} {p : Nat}
    (h : timeout.toNat ≤ (s.pollAnswer start timeout p - start).toNat) :
    s.poll start timeout p = (.deadline, (s.pollNow start timeout p).2) := by
  have hd := (deadlineReached_eq start timeout (s.pollAnswer start timeout p)).mpr h
  simp only [State.poll, State.pollNow_eq, hd, if_true]

/-- The iteration that samples (40_reader R108): LOW ends the wait, HIGH yields. -/
theorem State.poll_sample {s : State} {start timeout : Word} {p : Nat}
    (h : (s.pollAnswer start timeout p - start).toNat < timeout.toNat) :
    s.poll start timeout p =
      (match s.levelAt 0 1 with
        | .low => .ready
        | .high => .yielded,
        { s with
          clockIn := s.clockIn.tail
          levelIn := s.levelIn.tail
          drawn := s.drawn + 2
          history := s.history ++ [.now (s.pollAnswer start timeout p), .pinRead s.params.dataPin (s.levelAt 0 1)] ++
            (match s.levelAt 0 1 with
              | .low => []
              | .high => [.yield]) }) := by
  have hd : deadlineReached start timeout (s.pollAnswer start timeout p) = false := by
    rw [Bool.eq_false_iff, Ne, deadlineReached_eq]
    omega
  have hl : State.levelAnswer (s.pollNow start timeout p).2 = s.levelAt 0 1 := by
    rw [State.levelAnswer_eq_levelAt, State.levelAt_pollNow]
  simp only [State.pollNow_eq] at hl
  simp only [State.poll, State.pollNow_eq, hd, State.pinRead_eq, hl]
  cases s.levelAt 0 1 <;> simp [State.yield, State.record]

/-- The three ways an iteration ends, and when. -/
theorem State.poll_cases (s : State) (start timeout : Word) (p : Nat) :
    (timeout.toNat ≤ (s.pollAnswer start timeout p - start).toNat ∧ (s.poll start timeout p).1 = .deadline) ∨
      ((s.pollAnswer start timeout p - start).toNat < timeout.toNat ∧ s.levelAt 0 1 = .low ∧
        (s.poll start timeout p).1 = .ready) ∨
      ((s.pollAnswer start timeout p - start).toNat < timeout.toNat ∧ s.levelAt 0 1 = .high ∧
        (s.poll start timeout p).1 = .yielded) := by
  by_cases h : timeout.toNat ≤ (s.pollAnswer start timeout p - start).toNat
  · exact .inl ⟨h, by rw [State.poll_deadline h]⟩
  · have h' : (s.pollAnswer start timeout p - start).toNat < timeout.toNat := by omega
    cases hl : s.levelAt 0 1 with
    | low => exact .inr (.inl ⟨h', rfl, by rw [State.poll_sample h', hl]⟩)
    | high => exact .inr (.inr ⟨h', rfl, by rw [State.poll_sample h', hl]⟩)

/-- An iteration writes the answer queues, the draw count and the history, and nothing else. -/
theorem State.poll_frame (s : State) (start timeout : Word) (p : Nat) :
    ∃ cs ls d es, (s.poll start timeout p).2 =
      { s with clockIn := cs, levelIn := ls, drawn := d, history := s.history ++ es } := by
  by_cases h : timeout.toNat ≤ (s.pollAnswer start timeout p - start).toNat
  · refine ⟨s.clockIn.tail, s.levelIn, s.drawn + 1, [.now (s.pollAnswer start timeout p)], ?_⟩
    rw [State.poll_deadline h]
    rfl
  · rw [State.poll_sample (by omega)]
    refine ⟨s.clockIn.tail, s.levelIn.tail, s.drawn + 2,
      [.now (s.pollAnswer start timeout p), .pinRead s.params.dataPin (s.levelAt 0 1)] ++
        (match s.levelAt 0 1 with
          | .low => []
          | .high => [.yield]), ?_⟩
    rw [List.append_assoc]

/-- A reading writes the answer queue of the bytes, the draw count and the history, and nothing else. -/
theorem State.takeReading_frame (s : State) :
    ∃ bs d es, (s.takeReading).2 =
      { s with byteIn := bs, drawn := d, history := s.history ++ es } := by
  rw [State.takeReading_eq]
  refine ⟨s.byteIn.drop 3, s.drawn + 3,
    [.shiftInByte s.params.dataPin s.params.clockPin (s.byteAt 0 0),
      .shiftInByte s.params.dataPin s.params.clockPin (s.byteAt 1 1),
      .shiftInByte s.params.dataPin s.params.clockPin (s.byteAt 2 2)] ++
      pulseEvents s.params.clockPin s.gainPulses.toNat, ?_⟩
  rw [List.append_assoc]

end Sys2Proof.Machine
end

