-- ==== Sys2Proof/Laws/Composite.lean ====
section
/-!
SUPPORT. What READ and READ_MEDIAN leave unchanged from any iteration of a wait on, and what a step is.
-/

namespace Sys2Proof.Machine

/-- The fields that no reading, no add and no median step writes. -/
structure State.SameFrame (s t : State) : Prop where
  params : t.params = s.params
  gainPulses : t.gainPulses = s.gainPulses
  program : t.program = s.program
  cp : t.cp = s.cp
  history : ∃ es, t.history = s.history ++ es

theorem State.SameFrame.refl (s : State) : s.SameFrame s :=
  ⟨rfl, rfl, rfl, rfl, [], by simp⟩

theorem State.SameFrame.trans {s t u : State} (h1 : s.SameFrame t) (h2 : t.SameFrame u) :
    s.SameFrame u := by
  obtain ⟨es, he⟩ := h1.history
  obtain ⟨fs, hf⟩ := h2.history
  exact ⟨h2.params.trans h1.params, h2.gainPulses.trans h1.gainPulses, h2.program.trans h1.program,
    h2.cp.trans h1.cp, es ++ fs, by rw [hf, he, List.append_assoc]⟩

theorem State.poll_sameFrame (s : State) (start timeout : Word) (p : Nat) :
    s.SameFrame (s.poll start timeout p).2 := by
  obtain ⟨cs, ls, d, es, h⟩ := State.poll_frame s start timeout p
  rw [h]
  exact ⟨rfl, rfl, rfl, rfl, es, rfl⟩

theorem State.takeReading_sameFrame (s : State) : s.SameFrame (s.takeReading).2 := by
  obtain ⟨bs, d, es, h⟩ := State.takeReading_frame s
  rw [h]
  exact ⟨rfl, rfl, rfl, rfl, es, rfl⟩

theorem State.now_sameFrame (s : State) : s.SameFrame s.now.2 :=
  ⟨rfl, rfl, rfl, rfl, [_], rfl⟩

theorem State.addStep_sameFrame {s t : State} {v : Word} (h : s.addStep v = .ok t) : s.SameFrame t := by
  obtain ⟨-, rfl⟩ := State.addStep_ok.mp h
  exact ⟨rfl, rfl, rfl, rfl, [], by simp⟩

theorem State.finishMedian_sameFrame {s t : State} (h : s.finishMedian = .ok t) : s.SameFrame t := by
  rw [State.finishMedian_frame h]
  exact ⟨rfl, rfl, rfl, rfl, [], by simp⟩

/-- READ from an iteration of its wait on. -/
theorem State.readFrom_sameFrame (s : State) (start timeout : Word) (p : Nat) :
    s.SameFrame (s.readFrom start timeout p) := by
  have hp := State.poll_sameFrame s start timeout p
  unfold State.readFrom
  split
  · rename_i s1 h
    rw [h] at hp
    exact hp.trans ⟨rfl, rfl, rfl, rfl, [], by simp⟩
  · rename_i s1 h
    rw [h] at hp
    exact (hp.trans (State.takeReading_sameFrame s1)).trans ⟨rfl, rfl, rfl, rfl, [], by simp⟩
  · rename_i s1 h
    rw [h] at hp
    exact hp.trans ⟨rfl, rfl, rfl, rfl, [], by simp⟩

/-- One iteration of READ_MEDIAN, by how it ends (42_composite R180, R183, R184). -/
theorem State.medianFrom_eq (left : Nat) (start : Word) (p : Nat) (s : State) :
    s.medianFrom left start p =
      (match s.poll start Config.readMedianTimeout p with
      | (.deadline, s1) => .ok (s1.raise .timedOut)
      | (.yielded, s1) => .ok (s1.suspend start (.median left) p)
      | (.ready, s1) =>
        match s1.takeReading.2.addStep s1.takeReading.1 with
        | .error f => .error f
        | .ok s3 =>
          match left with
          | 0 => s3.finishMedian
          | n + 1 => s3.now.2.medianFrom n s3.now.1 s3.now.2.freshPatience) := by
  refine (State.medianFrom.eq_def left start p s).trans ?_
  rcases s.poll start Config.readMedianTimeout p with ⟨e, s1⟩
  cases e <;> rfl

/-- READ_MEDIAN from an iteration of a reading's wait on. -/
theorem State.medianFrom_sameFrame (left : Nat) (start : Word) (p : Nat) {s t : State}
    (h : s.medianFrom left start p = .ok t) : s.SameFrame t := by
  induction left generalizing start p s with
  | zero =>
    rw [State.medianFrom_eq] at h
    have hp := State.poll_sameFrame s start Config.readMedianTimeout p
    split at h
    · rename_i s1 he
      rw [he] at hp
      cases h
      exact hp.trans ⟨rfl, rfl, rfl, rfl, [], by simp⟩
    · rename_i s1 he
      rw [he] at hp
      cases h
      exact hp.trans ⟨rfl, rfl, rfl, rfl, [], by simp⟩
    · rename_i s1 he
      rw [he] at hp
      split at h
      · cases h
      · rename_i s3 ha
        exact ((hp.trans (State.takeReading_sameFrame s1)).trans (State.addStep_sameFrame ha)).trans
          (State.finishMedian_sameFrame h)
  | succ n ih =>
    rw [State.medianFrom_eq] at h
    have hp := State.poll_sameFrame s start Config.readMedianTimeout p
    split at h
    · rename_i s1 he
      rw [he] at hp
      cases h
      exact hp.trans ⟨rfl, rfl, rfl, rfl, [], by simp⟩
    · rename_i s1 he
      rw [he] at hp
      cases h
      exact hp.trans ⟨rfl, rfl, rfl, rfl, [], by simp⟩
    · rename_i s1 he
      rw [he] at hp
      split at h
      · cases h
      · rename_i s3 ha
        exact (((hp.trans (State.takeReading_sameFrame s1)).trans (State.addStep_sameFrame ha)).trans
          (State.now_sameFrame s3)).trans (ih _ _ h)

/-- What a step is (00_scope R12), by what the engine finds: a refused configuration, no command, a wait,
an illegal word, or a command to run. -/
theorem step_cases (s : State) :
    (s.params.wellFormed = false ∧ step s = .refused .illFormedConfiguration) ∨
      (s.params.wellFormed = true ∧ s.fetch = none ∧ step s = .next s) ∨
      (s.params.wellFormed = true ∧ ∃ w wait, s.fetch = some w ∧ s.wait = some wait ∧
        step s = settleAnswer w (resume wait s)) ∨
      (s.params.wellFormed = true ∧ ∃ w e, s.fetch = some w ∧ s.wait = none ∧ decode w = .error e ∧
        step s = settleAnswer w (illegalCommand s)) ∨
      (s.params.wellFormed = true ∧ ∃ w i, s.fetch = some w ∧ s.wait = none ∧ decode w = .ok i ∧
        step s = settleAnswer w (exec i s)) := by
  unfold step
  cases hp : s.params.wellFormed with
  | false => exact .inl ⟨rfl, rfl⟩
  | true =>
    cases hf : s.fetch with
    | none => exact .inr (.inl ⟨rfl, rfl, rfl⟩)
    | some w =>
      cases hw : s.wait with
      | some wait => exact .inr (.inr (.inl ⟨rfl, w, wait, rfl, rfl, rfl⟩))
      | none =>
        cases hd : decode w with
        | error e => exact .inr (.inr (.inr (.inl ⟨rfl, w, e, rfl, rfl, hd, by simp [hd]⟩)))
        | ok i => exact .inr (.inr (.inr (.inr ⟨rfl, w, i, rfl, rfl, hd, by simp [hd]⟩)))

end Sys2Proof.Machine
end

