-- ==== Sys2Proof/Laws/Decode.lean ====
section
/-!
SUPPORT. The two fields of a word, and the decoder on the words of the encoder.
-/

namespace Sys2Proof

theorem opField_append (op : BitVec 8) (arg : Word) : opField (op ++ arg) = op := by
  apply BitVec.eq_of_getElem_eq
  intro i hi
  have h := BitVec.getLsbD_append (x := op) (y := arg) (i := 32 + i)
  simp only [opField, BitVec.getElem_extractLsb']
  refine h.trans ?_
  simp [hi, BitVec.getLsbD_eq_getElem]

theorem argField_append (op : BitVec 8) (arg : Word) : argField (op ++ arg) = arg := by
  apply BitVec.eq_of_getElem_eq
  intro i hi
  have h := BitVec.getLsbD_append (x := op) (y := arg) (i := i)
  simp only [argField, BitVec.getElem_extractLsb', Nat.zero_add]
  refine h.trans ?_
  simp [hi, BitVec.getLsbD_eq_getElem]

/-- Decoding the word made of two fields reads the opcode map at the two fields. -/
theorem decode_append (op : BitVec 8) (arg : Word) :
    decode (op ++ arg) = decodeFields op arg := by
  have h1 := opField_append op arg
  have h2 := argField_append op arg
  simp only [decode]
  rw [h1, h2]

/-- Every word is the word made of its two fields. -/
theorem word_eq_fields (w : CommandWord) : w = opField w ++ argField w := by
  apply BitVec.eq_of_getElem_eq
  intro i hi
  have h := BitVec.getLsbD_append (x := opField w) (y := argField w) (i := i)
  refine ((BitVec.getLsbD_eq_getElem hi).symm.trans (Eq.trans ?_ h.symm)).trans (BitVec.getLsbD_eq_getElem hi)
  by_cases hlt : i < 32
  · simp [hlt, argField]
  · have h8 : i - 32 < 8 := by omega
    have e : 32 + (i - 32) = i := by omega
    simp [hlt, opField, h8, e]

end Sys2Proof
end

