-- ==== Sys2Proof/Laws/Invariant.lean ====
section
/-!
SUPPORT. The invariant as a check that runs, so that a concrete state can be shown to have it.
-/

namespace Sys2Proof.Machine

/-- Neighbours at position `k` are in order, if both exist. -/
def State.neighboursOrdered (s : State) (k : Nat) : Bool :=
  match s.valueOf k, s.valueOf (k + 1) with
  | some a, some b => decide (a.toInt ≤ b.toInt)
  | _, _ => true

/-- `State.FilterInv` as a check. -/
def State.filterCheck (s : State) : Bool :=
  decide (s.params.minSize ≤ s.capacity) && decide (s.capacity ≤ s.params.maxSize) &&
  decide (s.buf.length = s.params.maxSize) && decide (s.ord.length = s.params.maxSize) &&
  s.ord.all (fun i => decide (i < s.params.maxSize)) && decide (s.count ≤ s.capacity) &&
  decide (s.writeIndex < s.capacity) && decide (s.count < s.capacity → s.writeIndex = s.count) &&
  decide ((s.ord.take s.capacity).Perm (List.range s.capacity)) &&
  decide ((s.ord.take s.count).Perm (List.range s.count)) &&
  (List.range s.capacity).all (fun k =>
    decide (s.count < s.capacity → s.count ≤ k → s.ord[k]? = some k)) &&
  decide (s.sorted = true → 0 < s.count) &&
  (!s.sorted || (List.range s.count).all (fun k => decide (s.count ≤ k + 1) || s.neighboursOrdered k))

theorem State.FilterInv.of_check {s : State} (h : s.filterCheck = true) : s.FilterInv := by
  simp only [State.filterCheck, Bool.and_eq_true, decide_eq_true_eq, List.all_eq_true] at h
  obtain ⟨⟨⟨⟨⟨⟨⟨⟨⟨⟨⟨⟨h1, h2⟩, h3⟩, h4⟩, h5⟩, h6⟩, h7⟩, h8⟩, h9⟩, h10⟩, h11⟩, h12⟩, h13⟩ := h
  refine ⟨h1, h2, h3, h4, h5, h6, h7, h8, h9, h10, ?_, h12, ?_⟩
  · exact fun hc k hk hlt => h11 k (List.mem_range.mpr hlt) hc hk
  · intro hs k a b hk ha hb
    simp only [hs, Bool.not_true, Bool.false_or, List.all_eq_true, Bool.or_eq_true,
      decide_eq_true_eq] at h13
    rcases h13 k (List.mem_range.mpr (by omega)) with hc | hn
    · omega
    · simpa [State.neighboursOrdered, ha, hb] using hn

/-- `State.WaitMatches` as a check. -/
def State.waitCheck (s : State) : Bool :=
  match s.wait with
  | none => true
  | some wait =>
    match s.fetch with
    | none => false
    | some w =>
      match wait.task with
      | .read timeout => decide (decode w = .ok (.read timeout))
      | .median left =>
        match decode w with
        | .ok (.readMedian times) => decide ((left : Int) < times.toInt)
        | _ => false

theorem State.WaitMatches.of_check {s : State} (h : s.waitCheck = true) : s.WaitMatches := by
  unfold State.waitCheck at h
  unfold State.WaitMatches
  split
  · trivial
  · rename_i wait hw
    rw [hw] at h
    split
    · rename_i hf
      simp [hf] at h
    · rename_i w hf
      simp only [hf] at h
      split
      · rename_i timeout ht
        simpa [ht] using h
      · rename_i left ht
        simp only [ht] at h
        split at h
        · rename_i times hd
          exact ⟨times, hd, by simpa using h⟩
        · cases h

/-- `State.Inv` as a check. -/
def State.invCheck (s : State) : Bool :=
  s.params.wellFormed && decide (s.gainPulses ≠ 0) && s.filterCheck &&
  decide (s.status ≠ .ok → s.result = 0) && decide (s.cp ≤ s.program.length) && s.waitCheck

theorem State.Inv.of_check {s : State} (h : s.invCheck = true) : s.Inv := by
  simp only [State.invCheck, Bool.and_eq_true, decide_eq_true_eq] at h
  obtain ⟨⟨⟨⟨⟨h1, h2⟩, h3⟩, h4⟩, h5⟩, h6⟩ := h
  exact ⟨h1, h2, .of_check h3, h4, h5, .of_check h6⟩

/-- The prefix of ORD the sort works on, after it (41_filter R150, R153): in order, and the same indices. -/
theorem State.FilterInv.sorted_prefix {s : State} (h : s.FilterInv) (hc : 0 < s.count) :
    (bubbleSort s.keyOf (s.count - 1) (s.ord.take s.count)).2.Perm (s.ord.take s.count) ∧
      (bubbleSort s.keyOf (s.count - 1) (s.ord.take s.count)).2.Pairwise
        (fun i j => s.keyOf i ≤ s.keyOf j) := by
  have h1 := h.count_le
  have h2 := h.capacity_le
  have h3 := h.ord_length
  exact ⟨bubbleSort_perm .., bubbleSort_ordered _ _ _ (by simp; omega)⟩

end Sys2Proof.Machine
end

