-- ==== Sys2Proof/Laws/Observe.lean ====
section
/-!
SUPPORT. The views of the history, one event at a time: each is a fold, so it splits at an append, and each
event a READ or a power command makes does one thing to the view of the chip.
-/

namespace Sys2Proof.Machine

theorem wire_append (h es : List Event) : wire (h ++ es) = wire h ++ wire es :=
  List.flatMap_append

theorem clockLevels_append (clock : PinId) (h es : List Event) :
    clockLevels clock (h ++ es) = clockLevels clock h ++ clockLevels clock es := by
  simp [clockLevels, wire_append]

theorem dataBits_append (h es : List Event) : dataBits (h ++ es) = dataBits h ++ dataBits es :=
  List.flatMap_append

theorem byteAnswers_append (h es : List Event) :
    byteAnswers (h ++ es) = byteAnswers h ++ byteAnswers es := by
  simp [byteAnswers]

/-- The chip after more events: the fold goes on from where the history left it. -/
theorem chipView_append (clock : PinId) (h es : List Event) :
    chipView clock (h ++ es) = es.foldl (ChipView.next clock) (chipView clock h) :=
  List.foldl_append

theorem ChipView.called_of_begun {v : ChipView} (after : ChipView) (h : v.begun = true) :
    v.called after = after := by
  simp [ChipView.called, h]

theorem ChipView.called_of_not_begun {v : ChipView} (after : ChipView) (h : v.begun = false) :
    v.called after = v.lost := by
  simp [ChipView.called, h]

/-- After BEGIN a clock read, a sample and a yield do nothing to the chip. -/
theorem ChipView.next_now {clock : PinId} {v : ChipView} (t : Word) (h : v.begun = true) :
    v.next clock (.now t) = v :=
  ChipView.called_of_begun v h

theorem ChipView.next_pinRead {clock : PinId} {v : ChipView} (pin : PinId) (l : Level)
    (h : v.begun = true) : v.next clock (.pinRead pin l) = v :=
  ChipView.called_of_begun v h

theorem ChipView.next_yield {clock : PinId} {v : ChipView} (h : v.begun = true) :
    v.next clock .yield = v :=
  ChipView.called_of_begun v h

/-- Before BEGIN every host call but `PinMode` leaves no ground (70_reset_and_hazards R236). -/
theorem ChipView.next_lost {clock : PinId} {v : ChipView} {e : Event} (h : v.begun = false)
    (hm : ∀ pin mode, e ≠ .pinMode pin mode) (hc : ∀ w st r, e ≠ .command w st r) :
    v.next clock e = v.lost := by
  cases e with
  | pinMode pin mode => exact absurd rfl (hm pin mode)
  | command w st r => exact absurd rfl (hc w st r)
  | now t => exact ChipView.called_of_not_begun _ h
  | pinRead pin l => exact ChipView.called_of_not_begun _ h
  | pinWrite pin l => exact ChipView.called_of_not_begun _ h
  | shiftInByte d c b => exact ChipView.called_of_not_begun _ h
  | yield => exact ChipView.called_of_not_begun _ h

@[simp] theorem ChipView.next_command_setting (clock : PinId) (v : ChipView) (w : CommandWord)
    (st : Status) (r : Word) : (v.next clock (.command w st r)).setting = v.setting := rfl

@[simp] theorem ChipView.next_pinMode_setting (clock pin : PinId) (v : ChipView) (m : PinMode) :
    (v.next clock (.pinMode pin m)).setting = v.setting := by
  simp only [ChipView.next]
  split <;> rfl

/-- A byte from a chip that is ready starts the count of pulses. -/
theorem ChipView.next_shiftInByte {clock data c : PinId} {v : ChipView} {b : Byte} (h : v.ready = true) :
    v.next clock (.shiftInByte data c b) = { v with clockHigh := false, pulses := some 0 } := by
  have hb : v.begun = true := (Bool.and_eq_true_iff.mp h).1
  simp [ChipView.next, ChipView.called, h, hb]

/-- `n` more pulses after the bytes: the chip stays ready, and the number of them selects (40_reader R102). -/
theorem ChipView.pulses_select {clock : PinId} (n : Nat) {v : ChipView} {k : Nat} (hr : v.ready = true)
    (hp : v.pulses = some k) (hc : v.clockHigh = false) :
    (pulseEvents clock n).foldl (ChipView.next clock) v =
      { v with
        pulses := some (k + n)
        setting := if n = 0 then v.setting else settingOf (k + n) } := by
  have hb : v.begun = true ∧ v.power = .up := by simpa [ChipView.ready] using hr
  induction n generalizing v k with
  | zero => simp [pulseEvents, ← hp]
  | succ n ih =>
    have h1 : pulseEvents clock (n + 1) =
        .pinWrite clock .high :: .pinWrite clock .low :: pulseEvents clock n := by
      simp [pulseEvents, List.replicate_succ]
    have h2 : (v.next clock (.pinWrite clock .high)).next clock (.pinWrite clock .low) =
        { v with pulses := some (k + 1), setting := settingOf (k + 1) } := by
      simp [ChipView.next, ChipView.called, ChipView.rise, ChipView.fall, hb, hp, hc]
    have hr' : ({ v with pulses := some (k + 1), setting := settingOf (k + 1) } : ChipView).ready = true :=
      hr
    rw [h1, List.foldl_cons, List.foldl_cons, h2, ih hr' rfl hc hb]
    simp only [Nat.add_assoc, Nat.add_comm 1 n]
    split
    · rename_i hn
      simp [hn]
    · simp

end Sys2Proof.Machine
end

