-- ==== Sys2Proof/Laws/PerInstr.lean ====
section
/-!
SUPPORT. Statements per command: the word of a command has its OP and its ARG in the fields of
30_encoding R80, whatever the operand.
-/

namespace Sys2Proof.Laws.Encoding

/-- The word's fields are the command's opcode and operand. -/
def Statement (i : Instr) : Prop :=
  opField (encode i) = i.opcode ∧ argField (encode i) = i.operand

theorem begin : Statement .begin :=
  ⟨opField_append _ _, argField_append _ _⟩

theorem setGain (code : Word) : Statement (.setGain code) :=
  ⟨opField_append _ _, argField_append _ _⟩

theorem isReady : Statement .isReady :=
  ⟨opField_append _ _, argField_append _ _⟩

theorem read (timeout : Word) : Statement (.read timeout) :=
  ⟨opField_append _ _, argField_append _ _⟩

theorem powerDown : Statement .powerDown :=
  ⟨opField_append _ _, argField_append _ _⟩

theorem powerUp : Statement .powerUp :=
  ⟨opField_append _ _, argField_append _ _⟩

theorem filterConfigure (req : Word) : Statement (.filterConfigure req) :=
  ⟨opField_append _ _, argField_append _ _⟩

theorem filterClear : Statement .filterClear :=
  ⟨opField_append _ _, argField_append _ _⟩

theorem filterAdd (value : Word) : Statement (.filterAdd value) :=
  ⟨opField_append _ _, argField_append _ _⟩

theorem filterGetMedian : Statement .filterGetMedian :=
  ⟨opField_append _ _, argField_append _ _⟩

theorem readMedian (times : Word) : Statement (.readMedian times) :=
  ⟨opField_append _ _, argField_append _ _⟩

end Sys2Proof.Laws.Encoding
end

