-- ==== Sys2Proof/Tests/Slice0.lean ====
section
/-!
SUPPORT. Tests, each with the vector of 95_test_vectors it comes from or the rule it was worked out from by
hand, and one witness for the hypotheses of each statement (named witness_ and the statement).
-/

namespace Sys2Proof.Machine.Tests

/-! ### Helpers -/

/-- The state of an answer; the reset state if it is a stop. -/
def stateOf : Answer → State
  | .next s => s
  | .fault _ => State.reset
  | .refused _ => State.reset

/-- A small engine: capacity 3 of at most 4, three gain pulses. -/
def small : State :=
  State.construct
    { minSize := 1, maxSize := 4, capacityInit := 3, gainCodeInit := 64, dataPin := 0, clockPin := 1 }

/-- `small` with the host's next answers. -/
def withAnswers (clocks : List Word) (levels : List Level) (bytes : List Byte) (s : State) : State :=
  { s with clockIn := clocks, levelIn := levels, byteIn := bytes }

/-- `small` holding the values 5, 3, 9 in slots 0 to 2, full and unsorted. -/
def full : State :=
  { small with buf := [5, 3, 9, 0], count := 3 }

/-- `full` after its median: ORD sorted. -/
def fullSorted : State :=
  { full with ord := [1, 0, 2, 3], sorted := true }

/-- `s` with the one command word presented. -/
def presenting (w : CommandWord) (s : State) : State :=
  { s with program := [w] }

/-- A READ 100 waiting since clock value 1000, with a patience of one more iteration. -/
def readWaiting : State :=
  presenting 0x0400000064 { small with wait := some { start := 1000, task := .read 100, patience := 1 } }

/-- A READ_MEDIAN 3 waiting since 1000, with `left` readings to follow. -/
def medianWaiting (left : Nat) : State :=
  presenting 0x2000000003
    { small with wait := some { start := 1000, task := .median left, patience := 1 } }

/-! ### Well-formedness: an ill-formed term for each check (00_scope R6, R7; 30_encoding R87) -/

theorem test_params_ok : Params.test.wellFormed = true := by decide

theorem test_params_min_zero : ({ Params.test with minSize := 0 } : Params).wellFormed = false := by decide

theorem test_params_min_above_max :
    ({ Params.test with minSize := 17 } : Params).wellFormed = false := by decide

theorem test_params_max_too_big :
    ({ Params.test with maxSize := 2147483648 } : Params).wellFormed = false := by decide

theorem test_params_same_pins :
    ({ Params.test with clockPin := 0 } : Params).wellFormed = false := by decide

theorem test_written_no_operand : (Written.decimal 0).wellFormed .none = false := by decide

theorem test_written_hex_no_operand : (Written.hex 1 0).wellFormed .none = false := by decide

theorem test_written_unsigned_negative : (Written.decimal (-1)).wellFormed .unsigned = false := by decide

theorem test_written_unsigned_too_big :
    (Written.decimal 4294967296).wellFormed .unsigned = false := by decide

theorem test_written_signed_too_small :
    (Written.decimal (-2147483649)).wellFormed .signed = false := by decide

theorem test_written_signed_too_big :
    (Written.decimal 2147483648).wellFormed .signed = false := by decide

theorem test_written_hex_nine_digits : (Written.hex 9 5).wellFormed .signed = false := by decide

theorem test_written_hex_no_digit : (Written.hex 0 0).wellFormed .unsigned = false := by decide

theorem test_written_hex_digits_too_few : (Written.hex 1 16).wellFormed .unsigned = false := by decide

/-! ### Decoding: words written out bit by bit from 30_encoding R80, R82 -/

theorem test_decode_begin :
    decode 0b0000000100000000000000000000000000000000 = .ok .begin := by decide

theorem test_decode_begin_ignores_arg : decode 0x01DEADBEEF = .ok .begin := by decide

theorem test_decode_setGain :
    decode 0b0000001000000000000000000000000001000000 = .ok (.setGain 64) := by decide

theorem test_decode_isReady : decode 0x03DEADBEEF = .ok .isReady := by decide

theorem test_decode_read :
    decode 0b0000010000000000000000000000001111101000 = .ok (.read 1000) := by decide

theorem test_decode_powerDown : decode 0x0500000000 = .ok .powerDown := by decide

theorem test_decode_powerUp : decode 0x0600000000 = .ok .powerUp := by decide

theorem test_decode_filterConfigure :
    decode 0b0001000011111111111111111111111111111111 = .ok (.filterConfigure (-1)) := by decide

theorem test_decode_filterClear : decode 0x11FFFFFFFF = .ok .filterClear := by decide

theorem test_decode_filterAdd :
    decode 0b0001001011111111111111111111111111111101 = .ok (.filterAdd (-3)) := by decide

theorem test_decode_filterGetMedian : decode 0x1300000001 = .ok .filterGetMedian := by decide

theorem test_decode_readMedian :
    decode 0b0010000000000000000000000000000000001010 = .ok (.readMedian 10) := by decide

/-- The edges of the illegal ranges (30_encoding R84, vectors V-E1 to V-E6). -/
theorem test_decode_illegal :
    decode 0x0000000000 = .error (.illegalOpcode 0x00) ∧
    decode 0x0712345678 = .error (.illegalOpcode 0x07) ∧
    decode 0x0F00000000 = .error (.illegalOpcode 0x0F) ∧
    decode 0x1400000000 = .error (.illegalOpcode 0x14) ∧
    decode 0x1F00000000 = .error (.illegalOpcode 0x1F) ∧
    decode 0x210000000A = .error (.illegalOpcode 0x21) ∧
    decode 0xFFFFFFFFFF = .error (.illegalOpcode 0xFF) := by decide

theorem test_decodeTableWord : decodeTableWord 40 0x0400000064 = some (.read 100) := by decide

/-- V-F29: an operand that does not fit is refused by the assembler. -/
theorem test_assemble_refuses :
    assembleLine "FILTER_CONFIGURE 0x100000005".toList = .error .operandDoesNotFit := by decide

/-- 30_encoding R87: a comment, a hexadecimal operand in either case of digit, a blank line. -/
theorem test_assemble_program :
    assembleProgram "SET_GAIN 0xfF ; gain\n\nclear".toList = .ok [0x02000000FF, 0x1100000000] := by decide

/-! ### The commands -/

/-- V-R12d. -/
theorem test_begin :
    (stateOf (exec .begin small)).history = [.pinMode 1 .output, .pinMode 0 .input] := by decide

/-- V-R9: a byte view would give 3. -/
theorem test_setGain_320 : (stateOf (exec (.setGain 320) small)).gainPulses = 1 := by decide

/-- V-R3. -/
theorem test_setGain_32 : (stateOf (exec (.setGain 32) small)).gainPulses = 2 := by decide

/-- V-R12a and V-R12b. -/
theorem test_isReady :
    (stateOf (exec .isReady (withAnswers [] [.low] [] small))).result = 1 ∧
    (stateOf (exec .isReady (withAnswers [] [.high] [] small))).result = 0 := by decide

/-- V-R18: the clock wraps; elapsed 9 < 10. -/
theorem test_read_wrap :
    (stateOf (exec (.read 10)
      (withAnswers [0xFFFFFFF8, 1] [.low] [0x12, 0x34, 0x56] small))).result = 1193046 := by decide

/-- V-R19: elapsed 10 >= 10. -/
theorem test_read_deadline :
    (stateOf (exec (.read 10) (withAnswers [0xFFFFFFF8, 2] [.low] [] small))).status = .timedOut := by
  decide

/-- V-R12e. -/
theorem test_powerDown :
    (stateOf (exec .powerDown small)).history = [.pinWrite 1 .low, .pinWrite 1 .high] := by decide

/-- V-R12f. -/
theorem test_powerUp : (stateOf (exec .powerUp small)).history = [.pinWrite 1 .low] := by decide

/-- V-F24, at the parameters of the vector. -/
theorem test_filterConfigure_above :
    (stateOf (exec (.filterConfigure 25) State.reset)).result = 16 := by decide

/-- V-F27. -/
theorem test_filterConfigure_below :
    (stateOf (exec (.filterConfigure 0x80000000) State.reset)).capacity = 1 := by decide

/-- P1, command 12: ORD becomes the identity, BUF stays. -/
theorem test_filterClear :
    (stateOf (exec .filterClear fullSorted)).ord = [0, 1, 2, 3] ∧
    (stateOf (exec .filterClear fullSorted)).buf = [5, 3, 9, 0] := by decide

/-- The example of 41_filter R145. -/
theorem test_filterAdd_overwrites :
    (stateOf (exec (.filterAdd 4) { full with buf := [1, 2, 3, 0] })).buf = [4, 2, 3, 0] ∧
    (stateOf (exec (.filterAdd 4) { full with buf := [1, 2, 3, 0] })).writeIndex = 1 := by decide

/-- P1, command 6: BUF = [4, 2, 3], two exchanges, median 3. -/
theorem test_getMedian_sorts :
    (stateOf (exec .filterGetMedian { full with buf := [4, 2, 3, 0] })).ord = [1, 2, 0, 3] ∧
    (stateOf (exec .filterGetMedian { full with buf := [4, 2, 3, 0] })).sortSwaps = 2 ∧
    (stateOf (exec .filterGetMedian { full with buf := [4, 2, 3, 0] })).result = 3 := by decide

/-- V-F5: truncation toward zero, -1 and not -2. -/
theorem test_getMedian_truncates :
    (stateOf (exec .filterGetMedian
      { small with capacity := 2, count := 2, buf := [-3, 0, 0, 0] })).result = -1 := by decide

/-- The example of 42_composite R180: readings 5, 1, 3. -/
theorem test_readMedian :
    (stateOf (exec (.readMedian 3) (withAnswers [0, 0, 0, 0, 0, 0] [.low, .low, .low]
      [0, 0, 5, 0, 0, 1, 0, 0, 3] small))).result = 3 := by decide

/-- P4, command 1, to its first yield: reading 1 is kept, one reading follows the one that waits. -/
theorem test_readMedian_yields :
    (stateOf (exec (.readMedian 3) (withAnswers [3000, 3000, 3000, 3000] [.low, .high]
      [0, 0, 7] small))).wait.map (fun w => (w.start, w.task)) = some (3000, .median 1) := by decide

/-- V-R11l: only bit 7 of b2 decides. -/
theorem test_assemble : assemble 0xFF 0x7F 0xFF = 0xFFFF7FFF := by decide

/-- V-F9: the exact sum of two values near the least. -/
theorem test_average : average 0x80000000 0x80000001 = 0x80000001 := by decide

/-- P4, command 3: an illegal word completes. -/
theorem test_step_illegal :
    (stateOf (step (presenting 0 small))).status = .illegalCommand ∧
    (stateOf (step (presenting 0 small))).cp = 1 := by decide

/-- The word that withFetchWord places is the one the next step runs. -/
theorem test_withFetchWord :
    (stateOf (step (State.reset.withFetchWord 40 0x1000000002))).capacity = 2 := by decide

/-! ### Witnesses: the hypotheses of each statement can be met -/

theorem witness_EncodeOfDecode :
    decode 0x0200000040 = .ok (.setGain 64) ∧ decode 0x01DEADBEEF = .ok .begin := by decide

theorem witness_IllegalWordsFinish :
    small.params.wellFormed = true ∧ small.wait = none ∧
      (presenting 0x2100000000 small).fetch = some 0x2100000000 ∧
      decode 0x2100000000 = .error (.illegalOpcode 0x21) := by decide

theorem witness_StepRunsCommand :
    (presenting 0x0200000040 small).params.wellFormed = true ∧
      (presenting 0x0200000040 small).wait = none ∧
      (presenting 0x0200000040 small).fetch = some 0x0200000040 ∧
      decode 0x0200000040 = .ok (.setGain 64) := by decide

theorem witness_StepContinuesWait :
    readWaiting.params.wellFormed = true ∧
      readWaiting.wait = some { start := 1000, task := .read 100, patience := 1 } ∧
      readWaiting.fetch = some 0x0400000064 := by decide

theorem witness_NoCommandNoChange :
    small.params.wellFormed = true ∧ small.program.length ≤ small.cp := by decide

theorem witness_IllFormedConfigurationRefused :
    ∃ s : State, s.params.minSize < 1 ∧ step s = .refused .illFormedConfiguration :=
  ⟨{ small with params := { small.params with minSize := 0 } }, by decide, rfl⟩

/-- A step that completes, one that waits, and one without a command. -/
theorem witness_PositionAdvancesByOne :
    (∃ t, step (presenting 0x0200000040 small) = .next t ∧ t.wait = none) ∧
      (∃ t, step (withAnswers [1001] [.high] [] readWaiting) = .next t ∧ t.wait ≠ none) ∧
      (∃ t, step small = .next t ∧ small.program[small.cp]? = none) :=
  ⟨⟨_, rfl, by decide⟩, ⟨_, rfl, by decide⟩, ⟨_, rfl, by decide⟩⟩

/-- A step that takes answers of each kind from the queues. -/
theorem witness_HistoryRecordsAnswers :
    ∃ t, step (withAnswers [1001, 7] [.low, .high] [1, 2, 3, 4] readWaiting) = .next t ∧
      t.clockIn = [7] ∧ t.levelIn = [.high] ∧ t.byteIn = [4] :=
  ⟨_, rfl, by decide⟩

theorem witness_BeginSetsPinModes :
    small.params.dataPin ≠ small.params.clockPin ∧ ∃ t, exec .begin small = .next t :=
  ⟨by decide, _, rfl⟩

theorem witness_PowerDownLeavesClockHigh : ∃ t, exec .powerDown small = .next t :=
  ⟨_, rfl⟩

theorem witness_PowerUpLeavesClockLow : ∃ t, exec .powerUp small = .next t :=
  ⟨_, rfl⟩

/-- An engine about to find LOW at elapsed 99 of 100. -/
def ready : State :=
  withAnswers [2000, 2099] [.low] [0, 0, 1] small

theorem witness_ReadCompletesAtOnce :
    (ready.clockAt 1 1 - ready.clockAt 0 0).toNat < (100 : Word).toNat ∧ ready.levelAt 0 2 = .low := by
  decide

/-- At the deadline (V-R15's elapsed 100) and with timeout 0 (V-R17). -/
theorem witness_ReadTimesOutAtOnce :
    (100 : Word).toNat ≤ ((withAnswers [2000, 2100] [] [] small).clockAt 1 1 -
      (withAnswers [2000, 2100] [] [] small).clockAt 0 0).toNat ∧
    (0 : Word).toNat ≤ ((withAnswers [5000, 5000] [] [] small).clockAt 1 1 -
      (withAnswers [5000, 5000] [] [] small).clockAt 0 0).toNat := by decide

theorem witness_ReadYieldsOnHigh :
    ((withAnswers [2000, 2099] [.high] [] small).clockAt 1 1 -
      (withAnswers [2000, 2099] [.high] [] small).clockAt 0 0).toNat < (100 : Word).toNat ∧
    (withAnswers [2000, 2099] [.high] [] small).levelAt 0 2 = .high := by decide

/-- Each of the three ways an iteration ends, at the edge of the deadline. -/
theorem witness_ReadWaitIteration :
    readWaiting.params.wellFormed = true ∧ readWaiting.fetch = some 0x0400000064 ∧
    readWaiting.wait = some { start := 1000, task := .read 100, patience := 1 } ∧
    (100 : Word).toNat ≤ ((withAnswers [1100] [] [] readWaiting).pollAnswer 1000 100 1 - 1000).toNat ∧
    (((withAnswers [1099] [.high] [] readWaiting).pollAnswer 1000 100 1 - 1000).toNat < (100 : Word).toNat ∧
      (withAnswers [1099] [.high] [] readWaiting).levelAt 0 1 = .high) ∧
    (((withAnswers [1099] [.low] [] readWaiting).pollAnswer 1000 100 1 - 1000).toNat < (100 : Word).toNat ∧
      (withAnswers [1099] [.low] [] readWaiting).levelAt 0 1 = .low) := by decide

/-- A READ 100 presented with two HIGH samples (V-R14's clock). -/
def twoHighs : Reading :=
  { start := 1000, highs := [1000, 1040], last := 1080, b2 := 0xFF, b1 := 0xFF, b0 := 0xFE }

theorem twoHighs_inTime (timeout : Word) (h : 80 < timeout.toNat) : twoHighs.inTime timeout := by
  have h0 : ((1000 : Word) - 1000).toNat = 0 := by decide
  have h1 : ((1040 : Word) - 1000).toNat = 40 := by decide
  have h2 : ((1080 : Word) - 1000).toNat = 80 := by decide
  refine ⟨?_, ?_⟩
  · intro t ht
    simp only [twoHighs, List.mem_cons, List.not_mem_nil, or_false] at ht
    rcases ht with rfl | rfl
    · show ((1000 : Word) - 1000).toNat < _
      omega
    · show ((1040 : Word) - 1000).toNat < _
      omega
  · show ((1080 : Word) - 1000).toNat < _
    omega

theorem witness_ReadRun_completes :
    twoHighs.inTime 100 ∧ ∃ s : State, s.params.wellFormed = true ∧ s.wait = none ∧
      s.fetch = some 0x0400000064 ∧ decode 0x0400000064 = .ok (.read 100) ∧
      s.clockIn = twoHighs.clocks ++ [] ∧ s.levelIn = twoHighs.levels ++ [] ∧
      s.byteIn = twoHighs.bytes ++ [] :=
  ⟨twoHighs_inTime 100 (by decide),
    withAnswers twoHighs.clocks twoHighs.levels twoHighs.bytes (presenting 0x0400000064 small),
    by decide⟩

/-- V-R15's clock. -/
theorem witness_ReadRun_timesOut :
    ∃ s : State, s.params.wellFormed = true ∧ s.wait = none ∧ s.fetch = some 0x0400000064 ∧
      decode 0x0400000064 = .ok (.read 100) ∧
      (∀ t ∈ [(2050 : Word)], (t - 2000).toNat < (100 : Word).toNat) ∧
      (100 : Word).toNat ≤ ((2100 : Word) - 2000).toNat ∧
      s.clockIn = 2000 :: [2050] ++ 2100 :: [] ∧ s.levelIn = List.replicate 1 .high ++ [] :=
  ⟨withAnswers [2000, 2050, 2100] [.high] [] (presenting 0x0400000064 small), by decide, by decide,
    by decide, by decide, by simp, by simp, by decide, by decide⟩

theorem witness_ReadEndsUnderFairClock :
    ∃ s : State, s.params.wellFormed = true ∧ s.wait = none ∧ s.fetch = some 0x0400000064 ∧
      decode 0x0400000064 = .ok (.read 100) ∧ s.clockIn = 2000 :: [2050, 2100] ∧
      [(2050 : Word), 2100][1]? = some 2100 ∧ (100 : Word).toNat ≤ ((2100 : Word) - 2000).toNat :=
  ⟨withAnswers [2000, 2050, 2100] [] [] (presenting 0x0400000064 small), by decide⟩

theorem witness_ReadResultIsRawReading :
    (withAnswers [1001] [.low] [0x80, 0, 0] readWaiting).WaitMatches ∧
      (withAnswers [1001] [.low] [0x80, 0, 0] readWaiting).fetch = some 0x0400000064 ∧
      decode 0x0400000064 = .ok (.read 100) ∧
      ∃ t, step (withAnswers [1001] [.low] [0x80, 0, 0] readWaiting) = .next t ∧ t.wait = none ∧
        t.status = .ok :=
  ⟨.of_check (by decide), by decide, by decide, _, rfl, by decide⟩

/-- A reading of READ_MEDIAN whose clock answer number 1 is at the deadline. -/
theorem witness_MedianReadingEndsUnderFairClock :
    (withAnswers [1999, 2000] [] [] (medianWaiting 2)).Inv ∧
      (withAnswers [1999, 2000] [] [] (medianWaiting 2)).fetch = some 0x2000000003 ∧
      (withAnswers [1999, 2000] [] [] (medianWaiting 2)).wait =
        some { start := 1000, task := .median 2, patience := 1 } ∧
      (withAnswers [1999, 2000] [] [] (medianWaiting 2)).clockIn[1]? = some 2000 ∧
      1000 ≤ ((2000 : Word) - 1000).toNat :=
  ⟨.of_check (by decide), by decide⟩

/-- A queue with no patience, patience with no queue, and neither; elapsed 100 of 100. -/
theorem witness_HostClockDuty :
    (ready.clockIn ≠ [] ∨ 0 < 0) ∧ (small.clockIn ≠ [] ∨ 0 < 1) ∧ small.clockIn = [] ∧
      (100 : Word).toNat ≤ ((1100 : Word) - 1000).toNat := by decide

/-- Nothing queued at all, before and inside a wait. -/
theorem witness_EveryCommandEnds :
    ((presenting 0x2000000003 small).Inv ∧ (presenting 0x2000000003 small).fetch = some 0x2000000003) ∧
      readWaiting.params.wellFormed = true ∧ readWaiting.fetch = some 0x0400000064 ∧
      readWaiting.wait = some { start := 1000, task := .read 100, patience := 1 } :=
  ⟨⟨.of_check (by decide), by decide⟩, by decide⟩

/-- A READ that waited and completes, and one that waits on. -/
theorem witness_ReadWirePulses :
    (withAnswers [1001] [.low] [0x80, 0, 0] readWaiting).WaitMatches ∧
      (withAnswers [1001] [.low] [0x80, 0, 0] readWaiting).fetch = some 0x0400000064 ∧
      decode 0x0400000064 = .ok (.read 100) ∧
      (∃ t, step (withAnswers [1001] [.low] [0x80, 0, 0] readWaiting) = .next t ∧ t.wait = none ∧
        t.status = .ok) ∧
      ∃ t, step (withAnswers [1001] [.high] [] readWaiting) = .next t ∧ t.wait ≠ none :=
  ⟨.of_check (by decide), by decide, by decide, ⟨_, rfl, by decide⟩, _, rfl, by decide⟩

/-- `s` after BEGIN, the chip powered up. -/
def begun (s : State) : State :=
  { s with history := [.pinMode s.params.clockPin .output, .pinMode s.params.dataPin .input] }

/-- For each of the three pulse counts a READ that waited and completes; a READ_MEDIAN that does; a READ that
times out; SET_GAIN before BEGIN, and IS_READY after it. -/
theorem witness_GainPipeline :
    (∀ g ∈ [(1 : BitVec 2), 2, 3], ∃ s : State, s.gainPulses = g ∧ s.WaitMatches ∧
      s.fetch = some 0x0400000064 ∧ (chipView s.params.clockPin s.history).ready = true ∧
      ∃ t, step s = .next t ∧ t.wait = none ∧ t.status = .ok) ∧
    (∃ s : State, s.WaitMatches ∧ s.fetch = some 0x2000000003 ∧
      decode 0x2000000003 = .ok (.readMedian 3) ∧
      (chipView s.params.clockPin s.history).ready = true ∧
      ∃ t, step s = .next t ∧ t.wait = none ∧ t.status = .ok) ∧
    (∃ s t : State, s.WaitMatches ∧ s.fetch = some 0x0400000064 ∧
      (chipView s.params.clockPin s.history).begun = true ∧ step s = .next t ∧ t.status = .timedOut) ∧
    (∃ s t : State, s.WaitMatches ∧ s.fetch = some 0x0200000040 ∧
      decode 0x0200000040 = .ok (.setGain 64) ∧ drivesClock (.setGain 64) = false ∧
      ((chipView s.params.clockPin s.history).begun = true ∨ Instr.setGain 64 ≠ .isReady) ∧
      step s = .next t) ∧
    ∃ s t : State, s.WaitMatches ∧ s.fetch = some 0x0300000000 ∧ decode 0x0300000000 = .ok .isReady ∧
      drivesClock .isReady = false ∧ (chipView s.params.clockPin s.history).begun = true ∧
      step s = .next t := by
  refine ⟨fun g hg => ⟨withAnswers [1001] [.low] [0, 0, 1] (begun { readWaiting with gainPulses := g }),
    ?_⟩, ?_, ?_, ?_, ?_⟩
  · simp only [List.mem_cons, List.not_mem_nil, or_false] at hg
    rcases hg with rfl | rfl | rfl
    · exact ⟨rfl, .of_check (by decide), by decide, by decide, _, rfl, by decide⟩
    · exact ⟨rfl, .of_check (by decide), by decide, by decide, _, rfl, by decide⟩
    · exact ⟨rfl, .of_check (by decide), by decide, by decide, _, rfl, by decide⟩
  · exact ⟨withAnswers [1001] [.low] [0, 0, 1] (begun (medianWaiting 0)), .of_check (by decide), by decide,
      by decide, by decide, _, rfl, by decide⟩
  · exact ⟨withAnswers [1100] [] [] (begun readWaiting), _, .of_check (by decide), by decide, by decide, rfl,
      by decide⟩
  · exact ⟨presenting 0x0200000040 small, _, .of_check (by decide), by decide, by decide, by decide,
      .inr (by decide), rfl⟩
  · exact ⟨withAnswers [] [.high] [] (begun (presenting 0x0300000000 small)), _, .of_check (by decide),
      by decide, by decide, by decide, by decide, rfl⟩

/-- IS_READY and a READ that times out, before BEGIN. -/
theorem witness_CommandsBeforeBegin :
    (∃ s t : State, s.WaitMatches ∧ s.fetch = some 0x0300000000 ∧ decode 0x0300000000 = .ok .isReady ∧
      needsBegin .isReady = true ∧ (chipView s.params.clockPin s.history).begun = false ∧
      step s = .next t) ∧
    ∃ s t : State, s.WaitMatches ∧ s.fetch = some 0x0400000064 ∧
      decode 0x0400000064 = .ok (.read 100) ∧ needsBegin (.read 100) = true ∧
      (chipView s.params.clockPin s.history).begun = false ∧ step s = .next t ∧ t.status = .timedOut :=
  ⟨⟨withAnswers [] [.high] [] (presenting 0x0300000000 small), _, .of_check (by decide), by decide,
    by decide, by decide, by decide, rfl⟩,
    withAnswers [1100] [] [] readWaiting, _, .of_check (by decide), by decide, by decide, by decide,
    by decide, rfl, by decide⟩

/-- At construction, after BEGIN, and after POWER_DOWN. -/
theorem witness_FirstConversionIsA128 :
    (small.params.dataPin ≠ small.params.clockPin ∧
      (chipView small.params.clockPin small.history).power = .up ∧ ∃ t, exec .begin small = .next t) ∧
    (begun (presenting 0x0500000000 small)).params.wellFormed = true ∧
    (begun (presenting 0x0500000000 small)).wait = none ∧
    (begun (presenting 0x0500000000 small)).fetch = some 0x0500000000 ∧
    decode 0x0500000000 = .ok .powerDown ∧
    (chipView 1 (begun (presenting 0x0500000000 small)).history).begun = true ∧
    (chipView 1 (stateOf (step (begun (presenting 0x0500000000 small)))).history).power = .down ∧
    (chipView 1 (stateOf (step (begun (presenting 0x0500000000 small)))).history).begun = true ∧
    decode 0x0600000000 = .ok .powerUp :=
  ⟨⟨by decide, by decide, _, rfl⟩, by decide⟩

/-- 70_reset_and_hazards R240, R242: BEGIN, SET_GAIN 64, READ, POWER_DOWN, POWER_UP, by hand: the READ selects
channel A, gain 64, and the power cycle channel A, gain 128. -/
theorem test_chipView :
    nextSetting 1 [] = some .a128 ∧
    nextSetting 1 ([.pinMode 1 .output, .shiftInByte 0 1 0, .shiftInByte 0 1 0, .shiftInByte 0 1 0] ++
      pulseEvents 1 3 ++ [.command 0x0400000064 .ok 0]) = some .a64 ∧
    nextSetting 1 ([.pinMode 1 .output, .shiftInByte 0 1 0, .shiftInByte 0 1 0, .shiftInByte 0 1 0] ++
      pulseEvents 1 3 ++ [.command 0x0400000064 .ok 0, .pinWrite 1 .low, .pinWrite 1 .high,
      .command 0x0500000000 .ok 0, .pinWrite 1 .low, .command 0x0600000000 .ok 0]) = some .a128 := by
  decide

/-- 70_reset_and_hazards R236: one sample, or one clock read, before BEGIN, and BEGIN after it: no setting. -/
theorem test_chipView_before_begin :
    nextSetting 1 [.pinRead 0 .high, .command 0x0300000000 .ok 0, .pinMode 1 .output] = none ∧
    nextSetting 1 [.now 0, .now 0, .command 0x0400000000 .timedOut 0, .pinMode 1 .output] = none ∧
    nextSetting 1 [.command 0x0200000040 .ok 0, .pinMode 1 .output] = some .a128 := by decide

/-- 20_memory R61: with nothing queued and no patience left, the free clock answer is late, whatever it is. -/
theorem test_duty_ends_wait : (State.readFrom 1000 100 0 small).status = .timedOut := by
  rw [State.readFrom, State.poll_deadline (State.pollAnswer_late rfl)]
  rfl

theorem witness_ReaderLeavesFilterAlone :
    (readerCommand .powerUp = true ∧ (∃ t, exec .powerUp small = .next t) ∧
      ∀ code, Instr.powerUp ≠ .setGain code) ∧
    ∃ t, resume { start := 1000, task := .read 100, patience := 1 } readWaiting = .next t :=
  ⟨⟨rfl, ⟨_, rfl⟩, by simp⟩, _, rfl⟩

theorem witness_FilterMakesNoHostCall :
    filterCommand .filterGetMedian = true ∧ ∃ t, exec .filterGetMedian full = .next t :=
  ⟨rfl, _, rfl⟩

/-- Below, inside and above the range, at its edges. -/
theorem witness_FilterConfigureClampsAndClears :
    small.params.wellFormed = true ∧ small.ord.length = small.params.maxSize ∧
      (0 : Word).toInt < small.params.minSize ∧ ¬ (1 : Word).toInt < small.params.minSize ∧
      ¬ (small.params.maxSize : Int) < (4 : Word).toInt ∧
      (small.params.maxSize : Int) < (5 : Word).toInt := by decide

theorem witness_FilterClearEmpties : full.capacity ≤ full.ord.length := by decide

/-- Partly filled and full. -/
theorem witness_FilterAddWritesRing :
    (small.writeIndex < small.capacity ∧ small.writeIndex < small.buf.length ∧
      small.count < small.capacity) ∧
    (full.writeIndex < full.capacity ∧ full.writeIndex < full.buf.length ∧
      ¬ full.count < full.capacity) := by decide

theorem witness_RingHoldsLastValues :
    small.FilterInv ∧ small.count = 0 ∧ small.capacity ≤ [(1 : Word), 2, 3, 4].length :=
  ⟨.of_check (by decide), by decide, by decide⟩

theorem witness_AddSlidesWindow :
    full.FilterInv ∧ ∃ t, exec (.filterAdd 7) full = .next t :=
  ⟨.of_check (by decide), _, rfl⟩

/-- An empty filter, and counts at and below 0. -/
theorem witness_EmptyFilterRaised :
    small.count = 0 ∧ (0 : Word).toInt ≤ 0 ∧ (0xFFFFFFFF : Word).toInt ≤ 0 := by decide

/-- Unsorted and sorted. -/
theorem witness_GetMedianOfHeld :
    (full.FilterInv ∧ 0 < full.count) ∧
      (fullSorted.FilterInv ∧ 0 < fullSorted.count ∧ fullSorted.sorted = true) :=
  ⟨⟨.of_check (by decide), by decide⟩, .of_check (by decide), by decide⟩

theorem witness_SecondMedianIsIdle :
    full.FilterInv ∧ 0 < full.count ∧ ∃ t, exec .filterGetMedian full = .next t :=
  ⟨.of_check (by decide), by decide, _, rfl⟩

theorem witness_SortIsStableAscending :
    full.FilterInv ∧ 0 < full.count ∧ full.sorted = false ∧
      ∃ t, exec .filterGetMedian full = .next t :=
  ⟨.of_check (by decide), by decide, by decide, _, rfl⟩

theorem witness_SwapsAreInversions :
    full.FilterInv ∧ 0 < full.count ∧ full.sorted = false ∧
      ∃ t, exec .filterGetMedian full = .next t :=
  ⟨.of_check (by decide), by decide, by decide, _, rfl⟩

/-- Two readings ready at once, at elapsed 999 of 1000. -/
def twoReady : State :=
  withAnswers [0, 999, 5, 6] [.low, .low] [0, 0, 5, 0xFF, 0xFF, 0xFE] small

theorem witness_ReadMedianCompletes :
    twoReady.Inv ∧ (2 : Word).toInt = (2 : Nat) ∧ 0 < 2 ∧
      ∀ k, k < 2 → twoReady.ReadyAtOnce k := by
  refine ⟨.of_check (by decide), by decide, by decide, fun k hk => ?_⟩
  obtain rfl | rfl : k = 0 ∨ k = 1 := by omega
  · exact ⟨by decide, by decide⟩
  · exact ⟨by decide, by decide⟩

/-- The first reading ready, the second at its deadline. -/
theorem witness_ReadMedianTimesOut :
    ∃ s : State, s.Inv ∧ (2 : Word).toInt = (2 : Nat) ∧ 1 < 2 ∧ (∀ j, j < 1 → s.ReadyAtOnce j) ∧
      1000 ≤ (s.clockOf 1 - s.startOf 1).toNat := by
  refine ⟨withAnswers [0, 0, 5, 1005] [.low] [0, 0, 5] small, .of_check (by decide), by decide,
    by decide, fun j hj => ?_, by decide⟩
  obtain rfl : j = 0 := by omega
  exact ⟨by decide, by decide⟩

/-- The first reading ready, the second HIGH. -/
theorem witness_ReadMedianYields :
    ∃ s : State, s.Inv ∧ (2 : Word).toInt = (2 : Nat) ∧ 1 < 2 ∧ (∀ j, j < 1 → s.ReadyAtOnce j) ∧
      (s.clockOf 1 - s.startOf 1).toNat < 1000 ∧ s.levelOf 1 = .high := by
  refine ⟨withAnswers [0, 0, 5, 1004] [.low, .high] [0, 0, 5] small, .of_check (by decide), by decide,
    by decide, fun j hj => ?_, by decide, by decide⟩
  obtain rfl : j = 0 := by omega
  exact ⟨by decide, by decide⟩

/-- Each of the four ways an iteration ends, at the edge of the deadline. -/
theorem witness_MedianWaitIteration :
    ((withAnswers [2000] [] [] (medianWaiting 2)).Inv ∧
      1000 ≤ ((withAnswers [2000] [] [] (medianWaiting 2)).pollAnswer 1000 1000 1 - 1000).toNat) ∧
    ((withAnswers [1999] [.high] [] (medianWaiting 2)).Inv ∧
      ((withAnswers [1999] [.high] [] (medianWaiting 2)).pollAnswer 1000 1000 1 - 1000).toNat < 1000 ∧
      (withAnswers [1999] [.high] [] (medianWaiting 2)).levelAt 0 1 = .high) ∧
    ((withAnswers [1999] [.low] [] (medianWaiting 0)).Inv ∧
      ((withAnswers [1999] [.low] [] (medianWaiting 0)).pollAnswer 1000 1000 1 - 1000).toNat < 1000 ∧
      (withAnswers [1999] [.low] [] (medianWaiting 0)).levelAt 0 1 = .low) ∧
    ((withAnswers [1999] [.low] [] (medianWaiting 2)).Inv ∧
      ((withAnswers [1999] [.low] [] (medianWaiting 2)).pollAnswer 1000 1000 1 - 1000).toNat < 1000 ∧
      (withAnswers [1999] [.low] [] (medianWaiting 2)).levelAt 0 1 = .low) ∧
    (medianWaiting 0).fetch = some 0x2000000003 ∧ (medianWaiting 2).fetch = some 0x2000000003 :=
  ⟨⟨.of_check (by decide), by decide⟩, ⟨.of_check (by decide), by decide⟩,
    ⟨.of_check (by decide), by decide⟩, ⟨.of_check (by decide), by decide⟩, by decide⟩

theorem witness_ReadMedianRun :
    ∃ s : State, s.Inv ∧ s.wait = none ∧ s.fetch = some 0x2000000002 ∧
      decode 0x2000000002 = .ok (.readMedian 2) ∧ (2 : Word).toInt = [twoHighs, twoHighs].length ∧
      0 < [twoHighs, twoHighs].length ∧ (∀ r ∈ [twoHighs, twoHighs], r.inTime 1000) ∧
      s.clockIn = [twoHighs, twoHighs].flatMap Reading.clocks ++ [] ∧
      s.levelIn = [twoHighs, twoHighs].flatMap Reading.levels ++ [] ∧
      s.byteIn = [twoHighs, twoHighs].flatMap Reading.bytes ++ [] := by
  refine ⟨withAnswers ([twoHighs, twoHighs].flatMap Reading.clocks)
    ([twoHighs, twoHighs].flatMap Reading.levels) ([twoHighs, twoHighs].flatMap Reading.bytes)
    (presenting 0x2000000002 small), .of_check (by decide), by decide, by decide, by decide, by decide,
    by decide, ?_, by decide, by decide, by decide⟩
  intro r hr
  simp only [List.mem_cons, List.not_mem_nil, or_false, or_self] at hr
  exact hr ▸ twoHighs_inTime 1000 (by decide)

/-- A state no reset gives: suspended, with a value held. -/
theorem witness_InvariantKept :
    (withAnswers [1999] [.high] [] (medianWaiting 2)).Inv ∧
      ∃ t, step (withAnswers [1999] [.high] [] (medianWaiting 2)) = .next t :=
  ⟨.of_check (by decide), _, rfl⟩

theorem witness_InvariantAtConstruction : small.params.wellFormed = true := by decide

theorem witness_EveryStepAnswers : (presenting 0x1300000000 fullSorted).Inv :=
  .of_check (by decide)

theorem witness_ConstructionValues : small.params.wellFormed = true := by decide

/-- A READ that waits and completes, an illegal word, and an empty median. -/
theorem witness_StatusOfEachCommand :
    ((withAnswers [1100] [] [] readWaiting).Inv ∧
      ∃ t, step (withAnswers [1100] [] [] readWaiting) = .next t ∧ t.wait = none ∧
        t.status = .timedOut) ∧
    ((presenting 0 small).Inv ∧ ∃ t, step (presenting 0 small) = .next t ∧ t.wait = none) ∧
    ((presenting 0x1300000000 small).Inv ∧
      ∃ t, step (presenting 0x1300000000 small) = .next t ∧ t.wait = none ∧
        t.status = .emptyFilter) :=
  ⟨⟨.of_check (by decide), _, rfl, by decide⟩, ⟨.of_check (by decide), _, rfl, by decide⟩,
    .of_check (by decide), _, rfl, by decide⟩

/-- A command that sets SORTED, and an illegal word. -/
theorem witness_WhoWritesWhat :
    ((presenting 0x1300000000 full).WaitMatches ∧ full.sorted = false ∧
      ∃ t, step (presenting 0x1300000000 full) = .next t ∧ t.sorted = true) ∧
    ((presenting 0 full).WaitMatches ∧ ∃ t, step (presenting 0 full) = .next t) :=
  ⟨⟨.of_check (by decide), by decide, _, rfl, by decide⟩, .of_check (by decide), _, rfl⟩

/-- Other values in the three unwritten slots of a filter that holds one value. -/
theorem witness_UnwrittenSlotsUnobserved :
    ∃ (s : State) (b : List Word), s.Inv ∧ b.length = s.buf.length ∧
      b.take s.count = s.buf.take s.count ∧ b ≠ s.buf ∧ ∃ t, step s = .next t :=
  ⟨presenting 0x1300000000 { small with buf := [5, 0, 0, 0], count := 1, writeIndex := 1 },
    [5, 1, 2, 3], .of_check (by decide), by decide, by decide, by decide, _, rfl⟩

/-- Hexadecimal operands of 0, 8 and 9 digits; a name that takes no operand, and one that does. -/
theorem witness_OperandsFitOrRefused :
    (OperandKind.signed ≠ .none ∧ 0xFFFFFFFF < 16 ^ 8) ∧
      (OperandKind.unsigned ≠ .none ∧ 0x100000005 < 16 ^ 9 ∧ 0 < 16 ^ 0) ∧
      (mnemonicOf "clear".toList = some .filterClear ∧ Mnemonic.filterClear.kind = .none) ∧
      Mnemonic.setGain.kind ≠ .none := by decide

end Sys2Proof.Machine.Tests
end

/-!
The step function by what the engine finds (00_scope R12), what can be refused (R7), and the statements
StepRunsCommand, StepContinuesWait and IllFormedConfigurationRefused.
-/

namespace Sys2Proof

/-- A configuration is ill formed exactly if it breaks one of the four constraints of 00_scope R6. -/
theorem Params.wellFormed_eq_false_iff (p : Params) :
    p.wellFormed = false ↔
      p.minSize < 1 ∨ p.maxSize < p.minSize ∨ 2147483647 < p.maxSize ∨ p.dataPin = p.clockPin := by
  simp only [Params.wellFormed, Bool.and_eq_false_iff, decide_eq_false_iff_not, not_le, not_not,
    or_assoc]

end Sys2Proof

namespace Sys2Proof.Machine

/-! ### What a step is, by what the engine finds -/

theorem step_of_illFormed {s : State} (hp : s.params.wellFormed = false) :
    step s = .refused .illFormedConfiguration := by
  simp [step, hp]

theorem step_of_wait {s : State} {w : CommandWord} {wait : Wait} (hp : s.params.wellFormed = true)
    (hw : s.wait = some wait) (hf : s.fetch = some w) :
    step s = settleAnswer w (resume wait s) := by
  simp [step, hp, hf, hw]

theorem step_of_command {s : State} {w : CommandWord} {i : Instr} (hp : s.params.wellFormed = true)
    (hw : s.wait = none) (hf : s.fetch = some w) (hd : decode w = .ok i) :
    step s = settleAnswer w (exec i s) := by
  simp [step, hp, hf, hw, hd]

/-- Settling, field by field: a command no wait holds gets its completion event and advances the position
(20_memory R59, 10_state R24). -/
theorem settleAnswer_eq (w : CommandWord) (x : Answer) :
    settleAnswer w x =
      match x with
      | .next t =>
        .next (match t.wait with
          | none => { t with
              cp := t.cp + 1
              history := t.history ++ [.command w t.status t.result] }
          | some _ => t)
      | .fault f => .fault f
      | .refused r => .refused r := by
  cases x <;> rfl

/-- Settles O7: the step of a command to run, its settling written out. -/
theorem stepRunsCommand : Obligations.StepRunsCommand :=
  fun s w i hp hw hf hd => (step_of_command hp hw hf hd).trans (settleAnswer_eq w (exec i s))

/-- Settles O8: the step of a standing wait does not look at the word, but to settle it. -/
theorem stepContinuesWait : Obligations.StepContinuesWait :=
  fun s w wait hp hw hf => (step_of_wait hp hw hf).trans (settleAnswer_eq w (resume wait s))

/-! ### What is refused -/

/-- The steps of a meaning answer a next state or a fault. -/
theorem answer_ne_refused (x : Except Fault State) (r : Refusal) : answer x ≠ .refused r := by
  cases x <;> exact nofun

theorem settleAnswer_eq_refused {w : CommandWord} {x : Answer} {r : Refusal} :
    settleAnswer w x = .refused r ↔ x = .refused r := by
  cases x <;> simp [settleAnswer]

/-- Every command has a meaning in the model. -/
theorem exec_ne_refused (i : Instr) (s : State) (r : Refusal) : exec i s ≠ .refused r := by
  cases i with
  | begin | setGain | isReady | read | powerDown | powerUp => exact nofun
  | filterConfigure | filterClear | filterAdd | filterGetMedian => exact answer_ne_refused _ r
  | readMedian times =>
    show execReadMedian times s ≠ .refused r
    unfold execReadMedian
    split
    · exact nofun
    · exact answer_ne_refused _ r

theorem resume_ne_refused (wait : Wait) (s : State) (r : Refusal) : resume wait s ≠ .refused r := by
  unfold resume
  split
  · exact nofun
  · exact answer_ne_refused _ r

/-- A step of a well-formed configuration refuses nothing: an illegal word finishes as a command. -/
theorem step_ne_refused {s : State} (hp : s.params.wellFormed = true) (r : Refusal) :
    step s ≠ .refused r := by
  rcases step_cases s with ⟨hp', -⟩ | ⟨-, -, h⟩ | ⟨-, w, wait, -, -, h⟩ | ⟨-, w, e, -, -, -, h⟩ |
    ⟨-, w, i, -, -, -, h⟩
  · simp [hp] at hp'
  · exact h ▸ nofun
  · rw [h, ne_eq, settleAnswer_eq_refused]
    exact resume_ne_refused wait s r
  · rw [h]
    exact nofun
  · rw [h, ne_eq, settleAnswer_eq_refused]
    exact exec_ne_refused i s r

/-- Settles O10: an ill-formed configuration is refused first, and no step of a well-formed one is. -/
theorem illFormedConfigurationRefused : Obligations.IllFormedConfigurationRefused := by
  intro s
  rw [← Params.wellFormed_eq_false_iff]
  constructor
  · exact step_of_illFormed
  · intro hr
    by_contra hp
    exact step_ne_refused (Bool.eq_true_of_not_eq_false hp) _ hr

end Sys2Proof.Machine

/-!
What the exchange sort of 41_filter R150 computes: the insertion by value of 10_state R22 and R31, with one
exchange for each pair out of order.
-/

namespace Sys2Proof.Machine

/-! ### Inversions -/

/-- One key per index, in the order of the indices: how many pairs are out of order. -/
def inversionsOf (key : Nat → Int) : List Nat → Nat
  | [] => 0
  | a :: rest => rest.countP (fun b => decide (key b < key a)) + inversionsOf key rest

theorem inversionsBy_eq (s : State) (l : List Nat) : inversionsBy s.buf l = inversionsOf s.keyOf l := by
  induction l with
  | nil => rfl
  | cons a rest ih =>
    show List.countP _ (rest.map _) + inversionsBy s.buf rest = _
    rw [ih, List.countP_map]
    rfl

/-- Exchanging neighbours that are out of order removes exactly their own inversion. -/
theorem inversionsOf_exchange {key : Nat → Int} {a b : Nat} (h : key b < key a) (rest : List Nat) :
    inversionsOf key (a :: b :: rest) = inversionsOf key (b :: a :: rest) + 1 := by
  have h' : ¬ key a < key b := by omega
  simp only [inversionsOf, List.countP_cons, h, h', decide_true, decide_false, if_true,
    Bool.false_eq_true, if_false]
  omega

theorem inversionsOf_of_ordered {key : Nat → Int} {l : List Nat}
    (h : l.Pairwise (fun a b => key a ≤ key b)) : inversionsOf key l = 0 := by
  induction h with
  | nil => rfl
  | cons ha _ ih =>
    simp only [inversionsOf, ih, Nat.add_zero, List.countP_eq_zero, decide_eq_true_eq, not_lt]
    exact ha

/-- There are at most n(n-1)/2 pairs. -/
theorem inversionsOf_le (key : Nat → Int) (l : List Nat) :
    2 * inversionsOf key l ≤ l.length * (l.length - 1) := by
  induction l with
  | nil => exact Nat.zero_le _
  | cons a rest ih =>
    have hc : rest.countP (fun b => decide (key b < key a)) ≤ rest.length := List.countP_le_length
    have hm : (rest.length + 1) * rest.length = rest.length * (rest.length - 1) + 2 * rest.length := by
      cases rest.length with
      | zero => rfl
      | succ m =>
        simp only [Nat.add_sub_cancel]
        ring
    simp only [inversionsOf, List.length_cons, Nat.add_sub_cancel]
    omega

/-! ### Exchanges -/

/-- Insertion by key, equal keys as they stood. -/
abbrev sortByKey (key : Nat → Int) (l : List Nat) : List Nat :=
  l.insertionSort fun i j => key i ≤ key j

/-- Insertions of two indices with different keys commute. -/
theorem orderedInsert_comm {key : Nat → Int} {a b : Nat} (h : key b < key a) (l : List Nat) :
    (l.orderedInsert (fun i j => key i ≤ key j) b).orderedInsert (fun i j => key i ≤ key j) a =
      (l.orderedInsert (fun i j => key i ≤ key j) a).orderedInsert (fun i j => key i ≤ key j) b := by
  induction l with
  | nil =>
    simp [h.le, h]
  | cons c rest ih =>
    by_cases hb : key b ≤ key c
    · by_cases ha : key a ≤ key c <;> simp [ha, hb, h.le, h]
    · have ha : ¬ key a ≤ key c := by omega
      simp [ha, hb, ih]

/-- Exchanging neighbours that are out of order does not change what insertion by key gives. -/
theorem sortByKey_exchange {key : Nat → Int} {a b : Nat} (h : key b < key a) (rest : List Nat) :
    sortByKey key (a :: b :: rest) = sortByKey key (b :: a :: rest) :=
  orderedInsert_comm h _

/-- A pass removes one inversion for each of its exchanges, and insertion by key gives the same after it. -/
theorem bubblePass_spec (key : Nat → Int) (n : Nat) (l : List Nat) :
    inversionsOf key l = (bubblePass key n l).1 + inversionsOf key (bubblePass key n l).2 ∧
      sortByKey key (bubblePass key n l).2 = sortByKey key l := by
  induction n generalizing l with
  | zero => exact ⟨(Nat.zero_add _).symm, rfl⟩
  | succ n ih =>
    obtain _ | ⟨a, _ | ⟨b, rest⟩⟩ := l
    · exact ⟨rfl, rfl⟩
    · exact ⟨rfl, rfl⟩
    unfold bubblePass
    by_cases h : key b < key a
    · obtain ⟨hi, hs⟩ := ih (a :: rest)
      have hc := (bubblePass_perm key n (a :: rest)).countP_eq (fun x => decide (key x < key b))
      rw [if_pos h]
      refine ⟨?_, ?_⟩
      · rw [inversionsOf_exchange h]
        simp only [inversionsOf] at hi ⊢
        omega
      · rw [sortByKey_exchange h]
        exact congrArg (List.orderedInsert _ b) hs
    · obtain ⟨hi, hs⟩ := ih (b :: rest)
      have hc := (bubblePass_perm key n (b :: rest)).countP_eq (fun x => decide (key x < key a))
      rw [if_neg h]
      refine ⟨?_, congrArg (List.orderedInsert _ a) hs⟩
      simp only [inversionsOf] at hi ⊢
      omega

theorem bubbleSort_spec (key : Nat → Int) (n : Nat) (l : List Nat) :
    inversionsOf key l = (bubbleSort key n l).1 + inversionsOf key (bubbleSort key n l).2 ∧
      sortByKey key (bubbleSort key n l).2 = sortByKey key l := by
  induction n generalizing l with
  | zero => exact ⟨(Nat.zero_add _).symm, rfl⟩
  | succ n ih =>
    obtain ⟨hi, hs⟩ := bubblePass_spec key (n + 1) l
    obtain ⟨hi', hs'⟩ := ih (bubblePass key (n + 1) l).2
    unfold bubbleSort
    split
    · rename_i hz
      exact ⟨by rw [hi, hz], hs⟩
    · exact ⟨by rw [hi, hi', Nat.add_assoc], hs'.trans hs⟩

/-- The exchange sort gives the insertion by key, and makes one exchange for each inversion
(41_filter R150, R153). -/
theorem bubbleSort_eq {key : Nat → Int} {n : Nat} {l : List Nat} (h : l.length = n + 1) :
    bubbleSort key n l = (inversionsOf key l, sortByKey key l) := by
  obtain ⟨hi, hs⟩ := bubbleSort_spec key n l
  have ho := bubbleSort_ordered key n l h
  rw [inversionsOf_of_ordered ho, Nat.add_zero] at hi
  exact Prod.ext hi.symm (ho.insertionSort_eq.symm.trans hs)

end Sys2Proof.Machine

/-!
The steps of the filter as functions of the state: what the clear, the add and the median step make of a well
formed filter (41_filter R143, R146, R149), and that each keeps it well formed (10_state R26, R28, R29).
-/

namespace Sys2Proof.Machine

/-- `FilterInv` speaks of the parameters and the filter's own elements only. -/
theorem State.FilterInv.congr {s t : State} (h : s.FilterInv) (hp : t.params = s.params := by rfl)
    (hcap : t.capacity = s.capacity := by rfl) (hcount : t.count = s.count := by rfl)
    (hwrite : t.writeIndex = s.writeIndex := by rfl) (hsorted : t.sorted = s.sorted := by rfl)
    (hbuf : t.buf = s.buf := by rfl) (hord : t.ord = s.ord := by rfl) : t.FilterInv := by
  cases s
  cases t
  subst hp hcap hcount hwrite hsorted hbuf hord
  exact { h with }

/-! ### The clear -/

/-- The filter constructed anew with capacity `c` (41_filter R142, R143). -/
def State.cleared (c : Nat) (s : State) : State :=
  { s with capacity := c, count := 0, writeIndex := 0, sorted := false, ord := s.identityOrd c }

theorem State.reconfigure_eq {s : State} {req : Word} (h : clamp s.params req ≤ s.ord.length) :
    s.reconfigure req = .ok (s.cleared (clamp s.params req)) :=
  State.reconfigure_ok.mpr ⟨h, rfl⟩

/-- The arrays of a cleared filter, and its capacity, are all that matters. -/
theorem filterInv_of_cleared {s : State} {c : Nat} (hmin : s.params.minSize ≤ c)
    (hmax : c ≤ s.params.maxSize) (hpos : 0 < c) (hbuf : s.buf.length = s.params.maxSize)
    (hord : s.ord.length = s.params.maxSize) (hlegal : ∀ i ∈ s.ord, i < s.params.maxSize) :
    (s.cleared c).FilterInv where
  capacity_ge := hmin
  capacity_le := hmax
  buf_length := hbuf
  ord_length := by
    simp only [State.cleared, State.identityOrd, List.length_append, List.length_range, List.length_drop]
    omega
  ord_legal i hi := by
    rcases List.mem_append.mp hi with hr | hd
    · exact (List.mem_range.mp hr).trans_le hmax
    · exact hlegal i (List.mem_of_mem_drop hd)
  count_le := Nat.zero_le _
  writeIndex_lt := hpos
  partly_filled _ := rfl
  ord_perm := by simp [State.cleared, State.identityOrd]
  ord_prefix := .refl _
  ord_tail _ k _ hk := by
    have hk' : k < c := hk
    simp [State.cleared, State.identityOrd, List.getElem?_append_left, hk']
  sorted_nonempty := nofun
  ordered := nofun

/-- The least capacity is at least 1 (00_scope R6). -/
theorem Params.minSize_pos {p : Params} (h : p.wellFormed = true) : 0 < p.minSize := by
  simp only [Params.wellFormed, Bool.and_eq_true, decide_eq_true_eq] at h
  omega

theorem State.FilterInv.cleared {s : State} {c : Nat} (h : s.FilterInv)
    (hp : s.params.wellFormed = true) (hmin : s.params.minSize ≤ c) (hmax : c ≤ s.params.maxSize) :
    (s.cleared c).FilterInv :=
  filterInv_of_cleared hmin hmax ((Params.minSize_pos hp).trans_le hmin) h.buf_length h.ord_length
    h.ord_legal

/-! ### The add -/

/-- The value `v` added (41_filter R146). -/
def State.added (v : Word) (s : State) : State :=
  { s with
    buf := s.buf.set s.writeIndex v
    writeIndex := (s.writeIndex + 1) % s.capacity
    count := if s.count < s.capacity then s.count + 1 else s.count
    sorted := false }

theorem State.FilterInv.writeIndex_lt_buf {s : State} (h : s.FilterInv) :
    s.writeIndex < s.buf.length := by
  have h1 := h.writeIndex_lt
  have h2 := h.capacity_le
  have h3 := h.buf_length
  omega

/-- The filter after the add counts one value more, up to its capacity. -/
theorem State.FilterInv.added_count {s : State} (h : s.FilterInv) (v : Word) :
    (s.added v).count = min (s.count + 1) s.capacity := by
  have h1 := h.count_le
  simp only [State.added]
  split <;> omega

theorem State.FilterInv.added_count_pos {s : State} (h : s.FilterInv) (v : Word) :
    0 < (s.added v).count := by
  have h1 := h.writeIndex_lt
  rw [h.added_count]
  omega

/-- While the ring fills, ORD names the next slot at the next position (10_state R28). -/
theorem State.FilterInv.ord_take_succ {s : State} (h : s.FilterInv) (hlt : s.count < s.capacity) :
    s.ord.take (s.count + 1) = s.ord.take s.count ++ [s.count] := by
  rw [List.take_add_one, h.ord_tail hlt s.count le_rfl hlt]
  rfl

theorem State.FilterInv.added {s : State} (h : s.FilterInv) (v : Word) : (s.added v).FilterInv := by
  have hwi := h.writeIndex_lt
  have hcount := h.added_count v
  refine
    { capacity_ge := h.capacity_ge
      capacity_le := h.capacity_le
      buf_length := List.length_set.trans h.buf_length
      ord_length := h.ord_length
      ord_legal := h.ord_legal
      count_le := hcount ▸ Nat.min_le_right _ _
      writeIndex_lt := Nat.mod_lt _ (by omega)
      partly_filled := ?_
      ord_perm := h.ord_perm
      ord_prefix := ?_
      ord_tail := ?_
      sorted_nonempty := nofun
      ordered := nofun }
  all_goals rw [hcount]
  · intro hlt
    have hlt : min (s.count + 1) s.capacity < s.capacity := hlt
    have hwc := h.partly_filled (by omega)
    show (s.writeIndex + 1) % s.capacity = _
    rw [Nat.mod_eq_of_lt (by omega)]
    omega
  · show (s.ord.take _).Perm _
    rcases Nat.lt_or_ge s.count s.capacity with hlt | hge
    · rw [Nat.min_eq_left (by omega), h.ord_take_succ hlt, List.range_succ]
      exact h.ord_prefix.append_right _
    · rw [Nat.min_eq_right (by omega)]
      exact h.ord_perm
  · intro hlt k hk hkc
    have hlt : min (s.count + 1) s.capacity < s.capacity := hlt
    exact h.ord_tail (by omega) k (by omega) hkc

/-! ### The window -/

theorem State.FilterInv.capacity_le_buf {s : State} (h : s.FilterInv) : s.capacity ≤ s.buf.length := by
  have h2 := h.capacity_le
  have h3 := h.buf_length
  omega

theorem State.window_of_partly {s : State} (h : s.count < s.capacity) :
    s.window = s.buf.take s.count := if_pos h

theorem take_set_succ {α : Type} {l : List α} {i : Nat} (h : i < l.length) (v : α) :
    (l.set i v).take (i + 1) = l.take i ++ [v] := by
  rw [List.take_add_one, List.take_set_of_le le_rfl, List.getElem?_set_self h]
  rfl

/-- The window of a full ring, whose next slot is the oldest. -/
theorem State.window_of_full {s : State} (h : s.capacity ≤ s.count) :
    s.window = (s.buf.take s.capacity).drop s.writeIndex ++ s.buf.take s.writeIndex :=
  if_neg (Nat.not_lt.mpr h)

/-- An add to a ring that is not yet full writes after the values held. -/
theorem State.FilterInv.added_window_of_partly {s : State} (h : s.FilterInv) (v : Word)
    (hlt : s.count < s.capacity) : (s.added v).window = s.window ++ [v] := by
  have hwc := h.partly_filled hlt
  have hset := take_set_succ (h.writeIndex_lt_buf) v
  have hcount : (s.added v).count = s.count + 1 := if_pos hlt
  rw [State.window_of_partly hlt, ← hwc, ← hset]
  rcases Nat.lt_or_ge (s.count + 1) s.capacity with hlt' | hge
  · rw [State.window_of_partly (hcount.symm ▸ hlt'), hcount, ← hwc]
    rfl
  · have hfull : s.writeIndex + 1 = s.capacity := by omega
    have hwi : (s.added v).writeIndex = 0 := by
      show (s.writeIndex + 1) % s.capacity = 0
      rw [hfull, Nat.mod_self]
    rw [State.window_of_full (hcount.symm ▸ hge), hwi, hfull]
    exact List.append_nil _

/-- An add to a full ring overwrites the oldest value. -/
theorem State.FilterInv.added_window_of_full {s : State} (h : s.FilterInv) (v : Word)
    (hge : s.capacity ≤ s.count) : (s.added v).window = (s.window ++ [v]).drop 1 := by
  have hw := h.writeIndex_lt
  have hset := take_set_succ (h.writeIndex_lt_buf) v
  have hcount : (s.added v).count = s.count := if_neg (Nat.not_lt.mpr hge)
  have hnew : (s.added v).window =
      ((s.buf.set s.writeIndex v).take s.capacity).drop (s.writeIndex + 1) ++
        (s.buf.set s.writeIndex v).take (s.writeIndex + 1) := by
    rw [State.window_of_full (hcount.symm ▸ hge)]
    show List.drop ((s.writeIndex + 1) % s.capacity) _ ++
      List.take ((s.writeIndex + 1) % s.capacity) _ = _
    rcases Nat.lt_or_ge (s.writeIndex + 1) s.capacity with hlt | hwrap
    · rw [Nat.mod_eq_of_lt hlt]
      rfl
    · have hfull : s.writeIndex + 1 = s.capacity := by omega
      rw [hfull, Nat.mod_self, List.drop_eq_nil_of_le (List.length_take_le _ _)]
      exact List.append_nil _
  have hold : 0 < ((s.buf.take s.capacity).drop s.writeIndex).length := by
    have := h.capacity_le_buf
    simp only [List.length_drop, List.length_take]
    omega
  rw [hnew, hset, State.window_of_full hge, List.append_assoc, List.drop_append_of_le_length hold,
    List.drop_drop, List.take_set, List.drop_set_of_lt (Nat.lt_succ_self _)]

/-- The values held are those of the window, which only lists them by age. -/
theorem State.FilterInv.window_perm_held {s : State} (h : s.FilterInv) : s.window.Perm s.held := by
  unfold State.window State.held
  split
  · exact .refl _
  · rename_i hge
    have h1 := h.count_le
    have h2 := h.writeIndex_lt
    have hc : s.count = s.capacity := by omega
    have ht : s.buf.take s.writeIndex = (s.buf.take s.capacity).take s.writeIndex := by
      rw [List.take_take, Nat.min_eq_left h2.le]
    rw [hc, ht]
    exact List.perm_append_comm.trans (.of_eq (List.take_append_drop _ _))

theorem State.FilterInv.window_length {s : State} (h : s.FilterInv) : s.window.length = s.count := by
  have h1 := h.count_le
  have h2 := h.capacity_le_buf
  rw [h.window_perm_held.length_eq, State.held, List.length_take]
  omega

/-- An add slides the window (10_state R28, item 6). -/
theorem State.FilterInv.added_window {s : State} (h : s.FilterInv) (v : Word) :
    (s.added v).window = lastOf s.capacity (s.window ++ [v]) := by
  have hc := h.count_le
  rw [lastOf, List.length_append, h.window_length, List.length_singleton]
  rcases Nat.lt_or_ge s.count s.capacity with hlt | hge
  · rw [h.added_window_of_partly v hlt, Nat.sub_eq_zero_of_le hlt, List.drop_zero]
  · rw [h.added_window_of_full v hge, show s.count + 1 - s.capacity = 1 by omega]

/-! ### The median step -/

/-- No two words have one value, so there is one way to put a list of words in order. -/
theorem sortByValue_perm {l l' : List Word} (h : l.Perm l') :
    l.insertionSort valueLe = l'.insertionSort valueLe := by
  have : Std.Total valueLe := ⟨fun a b => le_total a.toInt b.toInt⟩
  have : IsTrans Word valueLe := ⟨fun _ _ _ => le_trans⟩
  refine List.Perm.eq_of_pairwise
    (fun _ _ _ _ h1 h2 => BitVec.eq_of_toInt_eq (le_antisymm h1 h2))
    (List.pairwise_insertionSort ..) (List.pairwise_insertionSort ..) ?_
  exact ((List.perm_insertionSort ..).trans h).trans (List.perm_insertionSort ..).symm

/-- The median of a list does not depend on the order of its values. -/
theorem medianOf_perm {l l' : List Word} (h : l.Perm l') : medianOf l = medianOf l' := by
  simp only [medianOf, sortByValue_perm h, h.length_eq]

/-- The values that the indices of ORD in use name, in the order of ORD. -/
def State.valuesInOrder (s : State) : List Word :=
  (s.ord.take s.count).map fun i => s.buf.getD i 0

theorem State.FilterInv.valueAt_eq {s : State} (h : s.FilterInv) {k : Nat} (hk : k < s.count) :
    s.valueAt k = .ok (s.valuesInOrder.getD k 0) := by
  obtain ⟨i, hi, -, hv⟩ := h.valueAt hk
  have hg : s.valuesInOrder[k]? = some (s.buf.getD i 0) := by
    rw [State.valuesInOrder, List.getElem?_map, List.getElem?_take_of_lt hk, hi]
    rfl
  rw [hv, List.getD_eq_getElem?_getD (l := s.valuesInOrder), hg]
  rfl

/-- The values held are the values in order, up to their order. -/
theorem State.FilterInv.valuesInOrder_perm_held {s : State} (h : s.FilterInv) :
    s.valuesInOrder.Perm s.held := by
  have hlen : s.count ≤ s.buf.length := h.count_le.trans h.capacity_le_buf
  have hheld : s.held = (List.range s.count).map fun i => s.buf.getD i 0 := by
    refine List.ext_getElem (by simp [State.held, hlen]) fun i h1 h2 => ?_
    have hi : i < s.count := by simpa using h2
    simp [State.held, hi.trans_le hlen]
  rw [hheld]
  exact h.ord_prefix.map _

theorem State.FilterInv.held_length {s : State} (h : s.FilterInv) : s.held.length = s.count :=
  h.window_perm_held.length_eq.symm.trans h.window_length

/-- The selection of a filter in order is the median of the values held (41_filter R151, R152). -/
theorem State.FilterInv.select_eq {s : State} (h : s.FilterInv) (hc : 0 < s.count)
    (hs : s.valuesInOrder = s.held.insertionSort valueLe) : s.select = .ok (medianOf s.held) := by
  have hm : s.count / 2 < s.count := Nat.div_lt_self hc (by decide)
  have hl : s.count / 2 - 1 < s.count := by omega
  simp only [State.select, h.valueAt_eq hm, h.valueAt_eq hl, bind, Except.bind, medianOf, h.held_length,
    hs, average, s32]
  split <;> rfl

/-- Neighbours of a well formed filter are in order exactly if all its entries in use
are. -/
theorem State.ordered_iff {s : State} (hlen : s.count ≤ s.ord.length)
    (huse : ∀ i ∈ s.ord.take s.count, i < s.buf.length) :
    (∀ k a b, k + 1 < s.count → s.valueOf k = some a → s.valueOf (k + 1) = some b → a.toInt ≤ b.toInt) ↔
      (s.ord.take s.count).Pairwise fun i j => s.keyOf i ≤ s.keyOf j := by
  have : Trans (fun i j => s.keyOf i ≤ s.keyOf j) (fun i j => s.keyOf i ≤ s.keyOf j)
    (fun i j => s.keyOf i ≤ s.keyOf j) := ⟨le_trans⟩
  have hval : ∀ k (hk : k < s.count), s.valueOf k = some (s.buf.getD s.ord[k] 0) := by
    intro k hk
    have := huse s.ord[k] (List.mem_take_iff_getElem.mpr ⟨k, by omega, rfl⟩)
    simp [State.valueOf, this, hk.trans_le hlen]
  rw [← List.isChain_iff_pairwise, List.isChain_iff_getElem]
  constructor
  · intro h k hk
    have hk' : k + 1 < s.count := by simp only [List.length_take] at hk; omega
    simpa [State.keyOf] using h k _ _ hk' (hval k (by omega)) (hval (k + 1) hk')
  · intro h k a b hk ha hb
    have hk' : k + 1 < (s.ord.take s.count).length := by simp only [List.length_take]; omega
    rw [hval k (by omega)] at ha
    rw [hval (k + 1) hk] at hb
    cases ha
    cases hb
    simpa [State.keyOf] using h k hk'

theorem State.FilterInv.count_le_ord {s : State} (h : s.FilterInv) : s.count ≤ s.ord.length := by
  have h1 := h.count_le
  have h2 := h.capacity_le
  have h3 := h.ord_length
  omega

/-- The entries of ORD in use are in order in a filter marked sorted. -/
theorem State.FilterInv.pairwise_of_sorted {s : State} (h : s.FilterInv) (hs : s.sorted = true) :
    (s.ord.take s.count).Pairwise fun i j => s.keyOf i ≤ s.keyOf j :=
  (State.ordered_iff h.count_le_ord fun i hi => (h.inUse i hi).2).mp (h.ordered hs)

/-- ORD with its entries in use put in order of value (10_state R22). -/
def State.sortedOrd (s : State) : List Nat :=
  orderBy s.buf (s.ord.take s.count) ++ s.ord.drop s.count

/-- The lazy sort of a well formed filter: it makes as many exchanges as there are inversions, none if the
filter is marked sorted (41_filter R149, R150). -/
theorem State.FilterInv.ensureSorted_eq {s : State} (h : s.FilterInv) (hc : 0 < s.count) :
    s.ensureSorted = .ok { s with
      ord := s.sortedOrd
      sortSwaps := inversionsBy s.buf (s.ord.take s.count) } := by
  rw [inversionsBy_eq]
  cases hs : s.sorted with
  | true =>
    have ho := h.pairwise_of_sorted hs
    have hord : s.sortedOrd = s.ord :=
      (congrArg (· ++ s.ord.drop s.count) ho.insertionSort_eq).trans (List.take_append_drop _ _)
    simp [State.ensureSorted, hs, hord, inversionsOf_of_ordered ho]
  | false =>
    have hlen : (s.ord.take s.count).length = s.count - 1 + 1 := by
      have := h.count_le_ord
      simp only [List.length_take]
      omega
    have hsort := h.sortStep hc
    rw [bubbleSort_eq hlen] at hsort
    simp only [State.ensureSorted, hs, hsort, bind, Except.bind]
    rfl

/-- The filter after its median step (41_filter R149). -/
def State.medianTaken (s : State) : State :=
  { s with
    ord := s.sortedOrd
    sorted := true
    sortSwaps := inversionsBy s.buf (s.ord.take s.count) }

theorem State.sortedOrd_perm (s : State) : s.sortedOrd.Perm s.ord :=
  ((List.perm_insertionSort ..).append_right _).trans (.of_eq (List.take_append_drop _ _))

theorem State.FilterInv.orderBy_length {s : State} (h : s.FilterInv) :
    (orderBy s.buf (s.ord.take s.count)).length = s.count := by
  have := h.count_le_ord
  simp only [orderBy, List.length_insertionSort, List.length_take]
  omega

theorem State.FilterInv.sortedOrd_take {s : State} (h : s.FilterInv) :
    s.sortedOrd.take s.count = orderBy s.buf (s.ord.take s.count) := by
  have hlen := h.orderBy_length
  rw [State.sortedOrd, List.take_append_of_le_length hlen.ge, List.take_of_length_le hlen.le]

theorem State.FilterInv.sortedOrd_drop {s : State} (h : s.FilterInv) :
    s.sortedOrd.drop s.count = s.ord.drop s.count := by
  have hlen := h.orderBy_length
  rw [State.sortedOrd, List.drop_append_of_le_length hlen.ge, List.drop_eq_nil_of_le hlen.le,
    List.nil_append]

/-- The entries of ORD up to any position past the values held are the same indices after the sort. -/
theorem State.FilterInv.sortedOrd_take_perm {s : State} (h : s.FilterInv) {n : Nat} (hn : s.count ≤ n) :
    (s.sortedOrd.take n).Perm (s.ord.take n) := by
  obtain ⟨d, rfl⟩ := Nat.exists_eq_add_of_le hn
  rw [List.take_add, List.take_add, h.sortedOrd_take, h.sortedOrd_drop]
  exact (List.perm_insertionSort ..).append_right _

theorem State.FilterInv.medianTaken {s : State} (h : s.FilterInv) (hc : 0 < s.count) :
    s.medianTaken.FilterInv := by
  have hinUse : (s.medianTaken.ord.take s.count).Perm (List.range s.count) :=
    (h.sortedOrd_take_perm le_rfl).trans h.ord_prefix
  have hlen : s.medianTaken.ord.length = s.params.maxSize :=
    s.sortedOrd_perm.length_eq.trans h.ord_length
  exact
    { capacity_ge := h.capacity_ge
      capacity_le := h.capacity_le
      buf_length := h.buf_length
      ord_length := hlen
      ord_legal := fun i hi => h.ord_legal i (s.sortedOrd_perm.mem_iff.mp hi)
      count_le := h.count_le
      writeIndex_lt := h.writeIndex_lt
      partly_filled := h.partly_filled
      ord_perm := (h.sortedOrd_take_perm h.count_le).trans h.ord_perm
      ord_prefix := hinUse
      ord_tail := fun hlt k hk hkc => by
        obtain ⟨d, rfl⟩ := Nat.exists_eq_add_of_le hk
        have hdrop := congrArg (fun l => l[d]?) h.sortedOrd_drop
        simp only [List.getElem?_drop] at hdrop
        exact hdrop.trans (h.ord_tail hlt _ hk hkc)
      sorted_nonempty := fun _ => hc
      ordered := fun _ => by
        refine (State.ordered_iff (s := s.medianTaken) ?_ ?_).mpr ?_
        · have := h.count_le_ord
          have := h.ord_length
          show s.count ≤ s.medianTaken.ord.length
          omega
        · intro i hi
          have hi' := List.mem_range.mp (hinUse.mem_iff.mp hi)
          exact hi'.trans_le (h.count_le.trans h.capacity_le_buf)
        · have : Std.Total fun i j => s.keyOf i ≤ s.keyOf j := ⟨fun i j => le_total _ _⟩
          have : IsTrans Nat fun i j => s.keyOf i ≤ s.keyOf j := ⟨fun _ _ _ => le_trans⟩
          exact h.sortedOrd_take ▸ List.pairwise_insertionSort .. }

theorem State.FilterInv.valuesInOrder_medianTaken {s : State} (h : s.FilterInv) :
    s.medianTaken.valuesInOrder = s.held.insertionSort valueLe := by
  show (s.sortedOrd.take s.count).map _ = _
  rw [h.sortedOrd_take, ← sortByValue_perm h.valuesInOrder_perm_held]
  exact List.map_insertionSort _ _ _ _ fun _ _ _ _ => Iff.rfl

/-- A median asked of an empty filter (41_filter R149, 60_exceptions R202). -/
theorem State.finishMedian_empty {s : State} (hc : s.count = 0) :
    s.finishMedian = .ok (s.raise .emptyFilter) := by
  simp only [State.finishMedian, State.medianStep, hc, if_true, bind, Except.bind, State.finishWith]

/-- The median step of a well formed filter that holds a value, and the end of its command (41_filter R148,
R149): RESULT is the median of the values held. -/
theorem State.FilterInv.finishMedian_eq {s : State} (h : s.FilterInv) (hc : 0 < s.count) :
    s.finishMedian = .ok (s.medianTaken.finish .ok (medianOf s.held)) := by
  have hsel : s.medianTaken.select = .ok (medianOf s.held) :=
    (h.medianTaken hc).select_eq hc h.valuesInOrder_medianTaken
  have hstep : s.medianStep = .ok (.ok (medianOf s.held), s.medianTaken) := by
    simp only [State.medianStep, hc.ne', if_false, h.ensureSorted_eq hc, bind, Except.bind]
    exact congrArg (fun x => Except.bind x fun m => .ok (Except.ok m, s.medianTaken)) hsel
  simp only [State.finishMedian, hstep, bind, Except.bind, State.finishWith]

/-- Settles O39: the exchanges are the inversions of ORD's entries in use, and their pairs bound them. -/
theorem swapsAreInversions : Obligations.SwapsAreInversions := by
  intro s t h hc _ hx
  have hm : s.finishMedian = .ok t := answer_eq_next.mp hx
  cases (h.finishMedian_eq hc).symm.trans hm
  have hlen : (s.ord.take s.count).length = s.count := by
    rw [List.length_take, Nat.min_eq_left h.count_le_ord]
  have hle := inversionsOf_le s.keyOf (s.ord.take s.count)
  rw [hlen, ← inversionsBy_eq] at hle
  exact ⟨rfl, hle⟩

end Sys2Proof.Machine

/-!
What every command keeps. A command is made of host calls, writes of the filter and its own end; a property
kept by each of these is kept by every command and by every iteration of a wait.
-/

namespace Sys2Proof.Machine

/-! ### Host calls -/

theorem completions_append (es fs : List Event) :
    completions (es ++ fs) = completions es ++ completions fs :=
  List.filter_append ..

/-- The host calls between two states: they take answers and record events, no completion among them. -/
def State.Called (s t : State) : Prop :=
  ∃ cs ls bs d es, completions es = [] ∧
    t = { s with clockIn := cs, levelIn := ls, byteIn := bs, drawn := d, history := s.history ++ es }

theorem State.Called.trans {s t u : State} (h1 : s.Called t) (h2 : t.Called u) : s.Called u := by
  obtain ⟨cs, ls, bs, d, es, he, rfl⟩ := h1
  obtain ⟨cs', ls', bs', d', fs, hf, rfl⟩ := h2
  exact ⟨cs', ls', bs', d', es ++ fs, by rw [completions_append, he, hf]; rfl, by simp⟩

theorem State.called_record {s : State} {e : Event} (he : completions [e] = []) :
    s.Called (s.record e) :=
  ⟨_, _, _, _, [e], he, rfl⟩

theorem State.called_now (s : State) : s.Called s.now.2 :=
  ⟨_, _, _, _, [.now s.clockAnswer], rfl, rfl⟩

theorem State.called_pinRead (s : State) : s.Called s.pinRead.2 :=
  ⟨_, _, _, _, [.pinRead s.params.dataPin s.levelAnswer], rfl, rfl⟩

theorem State.called_shiftInByte (s : State) : s.Called s.shiftInByte.2 :=
  ⟨_, _, _, _, [.shiftInByte s.params.dataPin s.params.clockPin s.byteAnswer], rfl, rfl⟩

theorem State.called_pulses (n : Nat) (s : State) : s.Called (s.pulses n) := by
  refine ⟨_, _, _, _, pulseEvents s.params.clockPin n, ?_, State.pulses_eq n s⟩
  induction n with
  | zero => rfl
  | succ n ih => rw [pulseEvents_succ, completions_append, ih]; rfl

theorem State.called_takeReading (s : State) : s.Called s.takeReading.2 :=
  (((s.called_shiftInByte).trans (State.called_shiftInByte _)).trans
    (State.called_shiftInByte _)).trans (State.called_pulses _ _)

theorem State.called_poll (s : State) (start timeout : Word) (p : Nat) :
    s.Called (s.poll start timeout p).2 := by
  rcases Nat.lt_or_ge (s.pollAnswer start timeout p - start).toNat timeout.toNat with h | h
  · rw [State.poll_sample h]
    refine ⟨s.clockIn.tail, s.levelIn.tail, s.byteIn, s.drawn + 2, _, ?_, by rw [List.append_assoc]⟩
    cases s.levelAt 0 1 <;> rfl
  · rw [State.poll_deadline h]
    exact ⟨_, _, _, _, [.now (s.pollAnswer start timeout p)], rfl, rfl⟩

/-! ### Properties that the parts of a command keep -/

/-- The property is kept by each thing a command does, if it is suspended with tasks of `T` only; a
READ_MEDIAN in `T` may wait again with fewer readings to follow. -/
structure KeptByParts (T : WaitTask → Prop) (P : State → Prop) : Prop where
  fewer : ∀ {l l'}, l' ≤ l → T (.median l) → T (.median l')
  called : ∀ {s t}, P s → s.Called t → P t
  finish : ∀ {s} v, P s → P (s.finish .ok v)
  raise : ∀ {s} r, P s → P (s.raise r)
  suspend : ∀ {s} start task p, T task → P s → P (s.suspend start task p)
  unwait : ∀ {s : State}, P s → P { s with wait := none }
  setGain : ∀ {s : State} code, P s → P { s with gainPulses := gainPulses code }
  reconfigure : ∀ {s t req}, P s → s.reconfigure req = .ok t → P t
  clearStep : ∀ {s t}, P s → s.clearStep = .ok t → P t
  addStep : ∀ {s t v}, P s → s.addStep v = .ok t → P t
  finishMedian : ∀ {s t}, P s → s.finishMedian = .ok t → P t

/-- The tasks a command may be suspended with (20_memory R62). -/
def waitsAs (i : Instr) (task : WaitTask) : Prop :=
  match task with
  | .read timeout => i = .read timeout
  | .median left => ∃ times : Word, i = .readMedian times ∧ (left : Int) < times.toInt

theorem KeptByParts.readFrom {T : WaitTask → Prop} {P : State → Prop} (hk : KeptByParts T P)
    {s : State} {start timeout : Word} {p : Nat} (hT : T (.read timeout)) (hs : P s) :
    P (s.readFrom start timeout p) := by
  have hp := hk.called hs (s.called_poll start timeout p)
  unfold State.readFrom
  split <;> rename_i s1 h <;> rw [h] at hp
  · exact hk.raise _ hp
  · exact hk.finish _ (hk.called hp (State.called_takeReading s1))
  · exact hk.suspend _ _ _ hT hp

/-- READ_MEDIAN with `n` readings still to take, none of them started (42_composite R180). -/
def State.takeReadings : Nat → State → Except Fault State
  | 0, s => s.finishMedian
  | n + 1, s => s.now.2.medianFrom n s.now.1 s.now.2.freshPatience

/-- What an iteration of READ_MEDIAN that answers has done (42_composite R180, R183, R184). -/
theorem State.medianFrom_cases {left : Nat} {start : Word} {p : Nat} {s t : State}
    (h : s.medianFrom left start p = .ok t) :
    t = (s.poll start Config.readMedianTimeout p).2.raise .timedOut ∨
      t = (s.poll start Config.readMedianTimeout p).2.suspend start (.median left) p ∨
      ∃ u, (s.poll start Config.readMedianTimeout p).2.takeReading.2.addStep
          (s.poll start Config.readMedianTimeout p).2.takeReading.1 = .ok u ∧
        u.takeReadings left = .ok t := by
  rw [State.medianFrom_eq] at h
  split at h <;> rename_i s1 he <;> rw [he]
  · cases h
    exact .inl rfl
  · cases h
    exact .inr (.inl rfl)
  · split at h
    · cases h
    · rename_i u ha
      refine .inr (.inr ⟨u, ha, ?_⟩)
      cases left <;> exact h

/-- READ_MEDIAN from an iteration of a wait on, whatever the number of readings that follow. -/
theorem KeptByParts.medianFrom {T : WaitTask → Prop} {P : State → Prop} (hk : KeptByParts T P)
    (left : Nat) (hT : T (.median left)) {s t : State} {start : Word} {p : Nat} (hs : P s)
    (h : s.medianFrom left start p = .ok t) : P t := by
  induction left generalizing s start p with
  | zero =>
    have hp := hk.called hs (s.called_poll start Config.readMedianTimeout p)
    obtain rfl | rfl | ⟨u, ha, hm⟩ := State.medianFrom_cases h
    · exact hk.raise _ hp
    · exact hk.suspend _ _ _ hT hp
    · exact hk.finishMedian (hk.addStep (hk.called hp (State.called_takeReading _)) ha) hm
  | succ n ih =>
    have hp := hk.called hs (s.called_poll start Config.readMedianTimeout p)
    obtain rfl | rfl | ⟨u, ha, hm⟩ := State.medianFrom_cases h
    · exact hk.raise _ hp
    · exact hk.suspend _ _ _ hT hp
    · have hu := hk.addStep (hk.called hp (State.called_takeReading _)) ha
      exact ih (hk.fewer (Nat.le_succ n) hT) (hk.called hu u.called_now) hm

/-- A step of a pseudocode that answers, and what it goes on with. -/
theorem bind_eq_ok {α β : Type} {x : Except Fault α} {f : α → Except Fault β} {b : β}
    (h : (x >>= f) = .ok b) : ∃ a, x = .ok a ∧ f a = .ok b := by
  cases x with
  | ok a => exact ⟨a, rfl, h⟩
  | error e => cases h

theorem KeptByParts.exec {T : WaitTask → Prop} {P : State → Prop} (hk : KeptByParts T P) {i : Instr}
    (hT : ∀ task, waitsAs i task → T task) {s t : State} (hs : P s) (h : exec i s = .next t) : P t := by
  cases i with
  | begin =>
    cases h
    exact hk.finish _ (hk.called (hk.called hs (State.called_record rfl)) (State.called_record rfl))
  | setGain code =>
    cases h
    exact hk.finish _ (hk.setGain code hs)
  | isReady =>
    cases h
    exact hk.finish _ (hk.called hs s.called_pinRead)
  | read timeout =>
    cases h
    exact hk.readFrom (hT _ rfl) (hk.called hs s.called_now)
  | powerDown =>
    cases h
    exact hk.finish _ (hk.called (hk.called hs (State.called_record rfl)) (State.called_record rfl))
  | powerUp =>
    cases h
    exact hk.finish _ (hk.called hs (State.called_record rfl))
  | filterConfigure req =>
    obtain ⟨u, hu, hf⟩ := bind_eq_ok (answer_eq_next.mp h)
    cases hf
    exact hk.finish _ (hk.reconfigure hs hu)
  | filterClear =>
    obtain ⟨u, hu, hf⟩ := bind_eq_ok (answer_eq_next.mp h)
    cases hf
    exact hk.finish _ (hk.clearStep hs hu)
  | filterAdd value =>
    obtain ⟨u, hu, hf⟩ := bind_eq_ok (answer_eq_next.mp h)
    cases hf
    exact hk.finish _ (hk.addStep hs hu)
  | filterGetMedian => exact hk.finishMedian hs (answer_eq_next.mp h)
  | readMedian times =>
    replace h : execReadMedian times s = .next t := h
    unfold execReadMedian at h
    split at h
    · cases h
      exact hk.raise _ hs
    · rename_i hpos
      obtain ⟨u, hu, hm⟩ := bind_eq_ok (answer_eq_next.mp h)
      refine hk.medianFrom _ (hT _ ⟨times, rfl, ?_⟩)
        (hk.called (hk.reconfigure hs hu) u.called_now) hm
      have : s32 times = times.toInt := rfl
      omega

theorem KeptByParts.resume {T : WaitTask → Prop} {P : State → Prop} (hk : KeptByParts T P)
    {s t : State} {wait : Wait} (hT : T wait.task) (hs : P s) (h : resume wait s = .next t) : P t := by
  obtain ⟨start, task, p⟩ := wait
  cases task with
  | read timeout =>
    cases h
    exact hk.readFrom hT (hk.unwait hs)
  | median left => exact hk.medianFrom left hT (hk.unwait hs) (answer_eq_next.mp h)

/-! ### Steps -/

/-- What a step that answers has done (00_scope R12). -/
theorem step_eq_next {s t : State} (h : step s = .next t) :
    (s.fetch = none ∧ t = s) ∨
      ∃ w u, s.fetch = some w ∧ t = u.settle w ∧
        ((∃ wait, s.wait = some wait ∧ resume wait s = .next u) ∨
          (s.wait = none ∧ ∃ e, decode w = .error e ∧ u = s.raise .illegalCommand) ∨
          (s.wait = none ∧ ∃ i, decode w = .ok i ∧ exec i s = .next u)) := by
  obtain ⟨-, hs⟩ | ⟨-, hf, hs⟩ | ⟨-, w, wait, hf, hw, hs⟩ | ⟨-, w, e, hf, hw, hd, hs⟩ |
    ⟨-, w, i, hf, hw, hd, hs⟩ := step_cases s
  all_goals rw [hs] at h
  · cases h
  · cases h
    exact .inl ⟨hf, rfl⟩
  · obtain ⟨u, hu, ht⟩ := settleAnswer_eq_next.mp h
    exact .inr ⟨w, u, hf, ht, .inl ⟨wait, hw, hu⟩⟩
  · obtain ⟨u, hu, ht⟩ := settleAnswer_eq_next.mp h
    cases hu
    exact .inr ⟨w, _, hf, ht, .inr (.inl ⟨hw, e, hd, rfl⟩)⟩
  · obtain ⟨u, hu, ht⟩ := settleAnswer_eq_next.mp h
    exact .inr ⟨w, u, hf, ht, .inr (.inr ⟨hw, i, hd, hu⟩)⟩

/-- The command `i` starts in `s`, or goes on from a wait of its own, and leaves `t`. -/
def runsTo (i : Instr) (s t : State) : Prop :=
  (s.wait = none ∧ exec i s = .next t) ∨
    ∃ wait, s.wait = some wait ∧ waitsAs i wait.task ∧ resume wait s = .next t

theorem KeptByParts.runsTo {T : WaitTask → Prop} {P : State → Prop} (hk : KeptByParts T P) {i : Instr}
    (hT : ∀ task, waitsAs i task → T task) {s t : State} (hs : P s) (h : runsTo i s t) : P t := by
  obtain ⟨-, h⟩ | ⟨wait, -, hw, h⟩ := h
  · exact hk.exec hT hs h
  · exact hk.resume (hT _ hw) hs h

/-- A wait matches exactly if the word presented is a command that may be suspended with its task. -/
theorem State.waitMatches_iff {s : State} :
    s.WaitMatches ↔ ∀ wait, s.wait = some wait →
      ∃ w i, s.fetch = some w ∧ decode w = .ok i ∧ waitsAs i wait.task := by
  unfold State.WaitMatches
  cases s.wait with
  | none => simp
  | some wait =>
    obtain ⟨start, task, p⟩ := wait
    cases s.fetch with
    | none => simp
    | some w => cases task <;> simp [waitsAs]

/-- A step from a state whose wait matches runs the command presented, be it its start or its wait. -/
theorem step_runs {s t : State} (hm : s.WaitMatches) (h : step s = .next t) :
    (s.fetch = none ∧ t = s) ∨
      ∃ w u, s.fetch = some w ∧ t = u.settle w ∧
        ((s.wait = none ∧ ∃ e, decode w = .error e ∧ u = s.raise .illegalCommand) ∨
          ∃ i, decode w = .ok i ∧ runsTo i s u) := by
  obtain hn | ⟨w, u, hf, ht, hu⟩ := step_eq_next h
  · exact .inl hn
  refine .inr ⟨w, u, hf, ht, ?_⟩
  obtain ⟨wait, hw, hr⟩ | he | ⟨hw, i, hd, he⟩ := hu
  · obtain ⟨w', i, hf', hd, hi⟩ := State.waitMatches_iff.mp hm wait hw
    cases hf.symm.trans hf'
    exact .inr ⟨i, hd, .inr ⟨wait, hw, hi, hr⟩⟩
  · exact .inl he
  · exact .inr ⟨i, hd, .inl ⟨hw, he⟩⟩

end Sys2Proof.Machine

/-!
The invariant of the engine: it holds at construction and every step keeps it (10_state R26, R28, R29).
-/

namespace Sys2Proof.Machine

/-- The invariant but for the wait. -/
structure State.EngineInv (s : State) : Prop where
  params_wf : s.params.wellFormed = true
  gain_legal : s.gainPulses ≠ 0
  filter : s.FilterInv
  error_result : s.status ≠ .ok → s.result = 0
  cp_le : s.cp ≤ s.program.length

theorem State.Inv.engineInv {s : State} (h : s.Inv) : s.EngineInv where
  params_wf := h.params_wf
  gain_legal := h.gain_legal
  filter := h.filter
  error_result := h.error_result
  cp_le := h.cp_le

theorem State.EngineInv.inv {s : State} (h : s.EngineInv) (hw : s.WaitMatches) : s.Inv where
  params_wf := h.params_wf
  gain_legal := h.gain_legal
  filter := h.filter
  error_result := h.error_result
  cp_le := h.cp_le
  waits := hw

/-- The four values of a gain code are legal (40_reader R101). -/
theorem gainPulses_ne_zero (code : Word) : gainPulses code ≠ 0 := by
  unfold gainPulses
  split
  · decide
  split
  · decide
  split <;> decide

/-! ### Construction -/

theorem State.construct_filterInv {p : Params} (h : p.wellFormed = true) :
    (State.construct p).FilterInv := by
  obtain ⟨hmin, hmax⟩ := clamp_range h p.capacityInit
  have hlen : (List.range p.maxSize).length = p.maxSize := List.length_range
  have hord : List.range p.maxSize =
      List.range (clamp p p.capacityInit) ++ (List.range p.maxSize).drop (clamp p p.capacityInit) := by
    have htake := List.take_append_drop (clamp p p.capacityInit) (List.range p.maxSize)
    rw [List.take_range, Nat.min_eq_left hmax] at htake
    exact htake.symm
  exact (filterInv_of_cleared (s := State.construct p) hmin hmax
    ((Params.minSize_pos h).trans_le hmin) List.length_replicate hlen
    fun i hi => List.mem_range.mp hi).congr (hord := hord)

/-- Settles O47: construction clears a filter whose arrays are as the clear leaves them. -/
theorem invariantAtConstruction : Obligations.InvariantAtConstruction := by
  have hinv : ∀ p : Params, p.wellFormed = true → (State.construct p).Inv := fun p h =>
    { params_wf := h
      gain_legal := gainPulses_ne_zero _
      filter := State.construct_filterInv h
      error_result := fun hs => absurd rfl hs
      cp_le := Nat.zero_le _
      waits := trivial }
  exact ⟨hinv, hinv Params.test (by decide)⟩

/-! ### Preservation -/

/-- What does not write the parameters, GAIN_PULSES or the port keeps the invariant but for the wait, if it
keeps the filter and gives no error a result. -/
theorem State.EngineInv.congr {s t : State} (h : s.EngineInv) (hfilter : t.FilterInv)
    (hresult : t.status ≠ .ok → t.result = 0) (hp : t.params = s.params := by rfl)
    (hgain : t.gainPulses = s.gainPulses := by rfl) (hprogram : t.program = s.program := by rfl)
    (hcp : t.cp = s.cp := by rfl) : t.EngineInv where
  params_wf := hp ▸ h.params_wf
  gain_legal := hgain ▸ h.gain_legal
  filter := hfilter
  error_result := hresult
  cp_le := hcp ▸ hprogram ▸ h.cp_le

/-- Every part of a command keeps the invariant but for the wait. -/
theorem engineInv_kept : KeptByParts (fun _ => True) State.EngineInv where
  fewer _ _ := trivial
  called := by
    rintro s _ hs ⟨cs, ls, bs, d, es, -, rfl⟩
    exact hs.congr hs.filter.congr hs.error_result
  finish v hs := hs.congr hs.filter.congr fun h => absurd rfl h
  raise r hs := hs.congr hs.filter.congr fun _ => rfl
  suspend start task p _ hs := hs.congr hs.filter.congr hs.error_result
  unwait hs := hs.congr hs.filter.congr hs.error_result
  setGain code hs :=
    { params_wf := hs.params_wf
      gain_legal := gainPulses_ne_zero code
      filter := hs.filter.congr
      error_result := hs.error_result
      cp_le := hs.cp_le }
  reconfigure := by
    intro s t req hs h
    obtain ⟨-, rfl⟩ := State.reconfigure_ok.mp h
    obtain ⟨hmin, hmax⟩ := clamp_range hs.params_wf req
    exact hs.congr (hs.filter.cleared hs.params_wf hmin hmax) hs.error_result
  clearStep := by
    intro s t hs h
    obtain ⟨-, rfl⟩ := State.clearStep_ok.mp h
    exact hs.congr (hs.filter.cleared hs.params_wf hs.filter.capacity_ge hs.filter.capacity_le)
      hs.error_result
  addStep := by
    intro s t v hs h
    obtain ⟨-, rfl⟩ := State.addStep_ok.mp h
    exact hs.congr (hs.filter.added v) hs.error_result
  finishMedian := by
    intro s t hs h
    rcases Nat.eq_zero_or_pos s.count with hc | hc
    · cases (State.finishMedian_empty hc).symm.trans h
      exact hs.congr hs.filter.congr fun _ => rfl
    · cases (hs.filter.finishMedian_eq hc).symm.trans h
      exact hs.congr (hs.filter.medianTaken hc).congr fun h => absurd rfl h

/-- A command waits only with tasks of its own. -/
theorem waitsAs_kept (i : Instr) :
    KeptByParts (waitsAs i) fun s => ∀ wait, s.wait = some wait → waitsAs i wait.task where
  fewer hl := fun ⟨times, hi, hlt⟩ => ⟨times, hi, by omega⟩
  called := by
    rintro s _ hs ⟨cs, ls, bs, d, es, -, rfl⟩
    exact hs
  finish _ hs := hs
  raise _ hs := hs
  suspend start task p hT _ := by
    rintro _ ⟨⟩
    exact hT
  unwait _ := nofun
  setGain _ hs := hs
  reconfigure hs h := by
    obtain ⟨-, rfl⟩ := State.reconfigure_ok.mp h
    exact hs
  clearStep hs h := by
    obtain ⟨-, rfl⟩ := State.clearStep_ok.mp h
    exact hs
  addStep hs h := by
    obtain ⟨-, rfl⟩ := State.addStep_ok.mp h
    exact hs
  finishMedian hs h := by
    rw [State.finishMedian_frame h]
    exact hs

/-- The port of the commands while one runs: nothing of it is written, and the history only grows, by events
that are no completion (10_state R24, 20_memory R59). -/
structure State.PortKept (s t : State) : Prop where
  params : t.params = s.params
  program : t.program = s.program
  cp : t.cp = s.cp
  history : ∃ es, t.history = s.history ++ es ∧ completions es = []

theorem State.PortKept.refl (s : State) : s.PortKept s := ⟨rfl, rfl, rfl, [], by simp, rfl⟩

theorem State.PortKept.congr {s t u : State} (h : s.PortKept t) (hp : u.params = t.params := by rfl)
    (hprogram : u.program = t.program := by rfl) (hcp : u.cp = t.cp := by rfl)
    (hhistory : u.history = t.history := by rfl) : s.PortKept u where
  params := hp.trans h.params
  program := hprogram.trans h.program
  cp := hcp.trans h.cp
  history := hhistory ▸ h.history

theorem portKept_kept (s : State) : KeptByParts (fun _ => True) s.PortKept where
  fewer _ _ := trivial
  called := by
    rintro u _ ⟨hp, hg, hc, es, hh, he⟩ ⟨cs, ls, bs, d, fs, hf, rfl⟩
    exact ⟨hp, hg, hc, es ++ fs, by simp [hh], by rw [completions_append, he, hf]; rfl⟩
  finish _ hs := hs.congr
  raise _ hs := hs.congr
  suspend _ _ _ _ hs := hs.congr
  unwait hs := hs.congr
  setGain _ hs := hs.congr
  reconfigure hs h := by
    obtain ⟨-, rfl⟩ := State.reconfigure_ok.mp h
    exact hs.congr
  clearStep hs h := by
    obtain ⟨-, rfl⟩ := State.clearStep_ok.mp h
    exact hs.congr
  addStep hs h := by
    obtain ⟨-, rfl⟩ := State.addStep_ok.mp h
    exact hs.congr
  finishMedian hs h := by
    rw [State.finishMedian_frame h]
    exact hs.congr

/-- The end of a command moves the position past its word, and keeps the rest of the invariant. -/
theorem State.EngineInv.complete {s : State} (h : s.EngineInv) (hlt : s.cp < s.program.length)
    (w : CommandWord) : (s.complete w).EngineInv where
  params_wf := h.params_wf
  gain_legal := h.gain_legal
  filter := h.filter.congr
  error_result := h.error_result
  cp_le := hlt

theorem State.waitMatches_of_none {s : State} (h : s.wait = none) : s.WaitMatches :=
  State.waitMatches_iff.mpr fun _ hw => nomatch h.symm.trans hw

/-- A command is suspended with a task of its own. -/
theorem waitsAs_of_runsTo {i : Instr} {s t : State} {wait : Wait} (h : runsTo i s t)
    (hw : t.wait = some wait) : waitsAs i wait.task := by
  refine (waitsAs_kept i).runsTo (fun _ h => h) (fun wait' hw' => ?_) h wait hw
  obtain ⟨hn, -⟩ | ⟨wait'', hs, hi, -⟩ := h
  · cases hn.symm.trans hw'
  · cases hs.symm.trans hw'
    exact hi

/-- Settles O46: a command keeps the invariant but for the wait, and waits only with a task of its own;
completion moves the position on, past a word that is there. -/
theorem invariantKept : Obligations.InvariantKept := by
  intro s t hs h
  obtain ⟨-, rfl⟩ | ⟨w, u, hf, rfl, hu⟩ := step_runs hs.waits h
  · exact hs
  have hlt : s.cp < s.program.length := (List.getElem?_eq_some_iff.mp hf).1
  obtain ⟨hw, -, -, rfl⟩ | ⟨i, hd, hr⟩ := hu
  · rw [State.settle_of_wait_none (s := s.raise .illegalCommand) w hw]
    have he := engineInv_kept.raise .illegalCommand hs.engineInv
    exact (he.complete hlt w).inv (State.waitMatches_of_none hw)
  have he := engineInv_kept.runsTo (fun _ _ => trivial) hs.engineInv hr
  have hp := (portKept_kept s).runsTo (fun _ _ => trivial) (.refl s) hr
  cases hw : u.wait with
  | none =>
    rw [State.settle_of_wait_none w hw]
    exact (he.complete (by rw [hp.cp, hp.program]; exact hlt) w).inv (State.waitMatches_of_none hw)
  | some wait =>
    have hfu : u.fetch = some w := by rw [State.fetch, hp.program, hp.cp]; exact hf
    rw [State.settle_of_wait_some w hw]
    refine he.inv (State.waitMatches_iff.mpr fun wait' hw' => ?_)
    exact ⟨w, i, hfu, hd, waitsAs_of_runsTo hr hw'⟩

/-! ### The command position -/

theorem State.fetch_eq (s : State) : s.fetch = s.program[s.cp]? := rfl

/-- A command that left the port alone, settled: it completes with its one event, or it waits. -/
theorem State.PortKept.settle {s u : State} (h : s.PortKept u) (w : CommandWord) :
    (u.settle w).program = s.program ∧
      ((u.settle w).wait = none → (u.settle w).cp = s.cp + 1 ∧
        ∃ es, (u.settle w).history =
            s.history ++ es ++ [.command w (u.settle w).status (u.settle w).result] ∧
          completions es = []) ∧
      ((u.settle w).wait ≠ none → (u.settle w).cp = s.cp ∧
        ∃ es, (u.settle w).history = s.history ++ es ∧ completions es = []) := by
  obtain ⟨-, hg, hc, es, hh, he⟩ := h
  cases hw : u.wait with
  | none =>
    rw [State.settle_of_wait_none w hw]
    refine ⟨hg, fun _ => ⟨congrArg (· + 1) hc, es, ?_, he⟩, fun hn => absurd hw hn⟩
    exact congrArg (· ++ [Event.command w u.status u.result]) hh
  | some wait =>
    rw [State.settle_of_wait_some w hw]
    exact ⟨hg, fun hn => (nomatch hw.symm.trans hn), fun _ => ⟨hc, es, hh, he⟩⟩

/-- Settles O11: a command leaves the port alone, and settling it moves the position on exactly if it does not
wait. -/
theorem positionAdvancesByOne : Obligations.PositionAdvancesByOne := by
  intro s t h
  obtain ⟨hf, rfl⟩ | ⟨w, u, hf, rfl, hu⟩ := step_eq_next h
  · rw [← State.fetch_eq, hf]
    exact ⟨rfl, rfl⟩
  have hp : s.PortKept u := by
    obtain ⟨wait, -, hr⟩ | ⟨-, -, -, rfl⟩ | ⟨-, i, -, he⟩ := hu
    · exact (portKept_kept s).resume trivial (.refl s) hr
    · exact (portKept_kept s).raise _ (.refl s)
    · exact (portKept_kept s).exec (fun _ _ => trivial) (.refl s) he
  rw [← State.fetch_eq, hf]
  exact hp.settle w

/-- Settles O9: past the end of the host's list no word is fetched. -/
theorem noCommandNoChange : Obligations.NoCommandNoChange := by
  intro s hp hle
  have hf : s.fetch = none := List.getElem?_eq_none hle
  simp only [step, hp, hf, if_true]

end Sys2Proof.Machine

/-!
Who writes what: the column "written by" of 10_state R21, command by command.
-/

namespace Sys2Proof.Machine

/-! ### Elements that stay -/

theorem Element.same_trans {e : Element} {s t u : State} (h1 : e.same s t) (h2 : e.same t u) :
    e.same s u := by
  cases e <;> exact h2.trans h1

/-- Host calls write no element. -/
theorem State.Called.same {s t : State} (h : s.Called t) (e : Element) : e.same s t := by
  obtain ⟨cs, ls, bs, d, es, -, rfl⟩ := h
  cases e <;> rfl

theorem Element.same_finish (e : Element) (st : Status) (r : Word) (s : State) :
    e.same s (s.finish st r) := by
  cases e <;> rfl

theorem Element.same_suspend (e : Element) (start : Word) (task : WaitTask) (p : Nat) (s : State) :
    e.same s (s.suspend start task p) := by
  cases e <;> rfl

theorem Element.same_settle (e : Element) (w : CommandWord) (s : State) : e.same s (s.settle w) := by
  cases hw : s.wait with
  | none =>
    rw [State.settle_of_wait_none w hw]
    cases e <;> rfl
  | some wait =>
    rw [State.settle_of_wait_some w hw]
    cases e <;> rfl

/-- READ writes no element, its wait included. -/
theorem Element.same_readFrom (e : Element) (start timeout : Word) (p : Nat) (s : State) :
    e.same s (s.readFrom start timeout p) := by
  have hp := (s.called_poll start timeout p).same e
  unfold State.readFrom
  split <;> rename_i s1 h <;> rw [h] at hp
  · exact Element.same_trans hp (e.same_finish _ _ _)
  · exact Element.same_trans hp
      (Element.same_trans (s1.called_takeReading.same e) (e.same_finish _ _ _))
  · exact Element.same_trans hp (e.same_suspend _ _ _ _)

/-! ### What each command writes -/

/-- No command but READ and READ_MEDIAN waits, so the others run from their start. -/
theorem exec_of_runsTo {i : Instr} {s t : State} (h : runsTo i s t) (hr : ∀ timeout, i ≠ .read timeout)
    (hm : ∀ times, i ≠ .readMedian times) : exec i s = .next t := by
  obtain ⟨-, he⟩ | ⟨wait, -, hi, -⟩ := h
  · exact he
  obtain ⟨start, task, p⟩ := wait
  cases task with
  | read timeout => exact absurd hi (hr timeout)
  | median left =>
    obtain ⟨times, hi, -⟩ := hi
    exact absurd hi (hm times)

theorem exec_filterConfigure_next {req : Word} {s t : State}
    (h : exec (.filterConfigure req) s = .next t) :
    t = (s.cleared (clamp s.params req)).finish .ok (BitVec.ofNat 32 (clamp s.params req)) := by
  obtain ⟨u, hu, hf⟩ := bind_eq_ok (answer_eq_next.mp h)
  obtain ⟨-, rfl⟩ := State.reconfigure_ok.mp hu
  cases hf
  rfl

theorem exec_filterClear_next {s t : State} (h : exec .filterClear s = .next t) :
    t = (s.cleared s.capacity).finish .ok 0 := by
  obtain ⟨u, hu, hf⟩ := bind_eq_ok (answer_eq_next.mp h)
  obtain ⟨-, rfl⟩ := State.clearStep_ok.mp hu
  cases hf
  rfl

theorem exec_filterAdd_next {v : Word} {s t : State} (h : exec (.filterAdd v) s = .next t) :
    t = (s.added v).finish .ok 0 := by
  obtain ⟨u, hu, hf⟩ := bind_eq_ok (answer_eq_next.mp h)
  obtain ⟨-, rfl⟩ := State.addStep_ok.mp hu
  cases hf
  rfl

/-- READ_MEDIAN, from its start or from a wait, leaves GAIN_PULSES. -/
theorem readMedian_gainPulses {times : Word} {s t : State} (h : runsTo (.readMedian times) s t) :
    t.gainPulses = s.gainPulses := by
  obtain ⟨-, h⟩ | ⟨⟨start, task, p⟩, -, hi, h⟩ := h
  · replace h : execReadMedian times s = .next t := h
    unfold execReadMedian at h
    split at h
    · cases h
      rfl
    · obtain ⟨u, hu, hm⟩ := bind_eq_ok (answer_eq_next.mp h)
      obtain ⟨-, rfl⟩ := State.reconfigure_ok.mp hu
      exact (State.medianFrom_sameFrame _ _ _ hm).gainPulses
  · cases task with
    | read timeout => cases hi
    | median left => exact (State.medianFrom_sameFrame _ _ _ (answer_eq_next.mp h)).gainPulses

/-- A command writes only what the column lets it. -/
theorem same_of_runsTo {i : Instr} {s t : State} (h : runsTo i s t) {e : Element}
    (he : e ∉ elementsWritten i) : e.same s t := by
  cases i with
  | begin =>
    cases exec_of_runsTo h nofun nofun
    cases e <;> rfl
  | setGain code =>
    cases exec_of_runsTo h nofun nofun
    cases e <;> simp [elementsWritten, Element.same] at he ⊢
  | isReady =>
    cases exec_of_runsTo h nofun nofun
    cases e <;> rfl
  | read timeout =>
    obtain ⟨-, h⟩ | ⟨⟨start, task, p⟩, -, hi, h⟩ := h
    · cases h
      exact Element.same_trans (s.called_now.same e) (e.same_readFrom ..)
    · cases task with
      | read timeout =>
        cases h
        refine Element.same_trans (t := { s with wait := none }) ?_ (e.same_readFrom ..)
        cases e <;> rfl
      | median left =>
        obtain ⟨times, hi, -⟩ := hi
        cases hi
  | powerDown =>
    cases exec_of_runsTo h nofun nofun
    cases e <;> rfl
  | powerUp =>
    cases exec_of_runsTo h nofun nofun
    cases e <;> rfl
  | filterConfigure req =>
    rw [exec_filterConfigure_next (exec_of_runsTo h nofun nofun)]
    cases e <;> simp [elementsWritten, Element.same, State.cleared] at he ⊢
  | filterClear =>
    rw [exec_filterClear_next (exec_of_runsTo h nofun nofun)]
    cases e <;> simp [elementsWritten, Element.same, State.cleared] at he ⊢
  | filterAdd value =>
    rw [exec_filterAdd_next (exec_of_runsTo h nofun nofun)]
    cases e <;> simp [elementsWritten, Element.same, State.added] at he ⊢
  | filterGetMedian =>
    rw [State.finishMedian_frame (answer_eq_next.mp (exec_of_runsTo h nofun nofun))]
    cases e <;> simp [elementsWritten, Element.same] at he ⊢
  | readMedian times =>
    cases e with
    | gainPulses => exact readMedian_gainPulses h
    | capacity | count | writeIndex | sorted | buf | ord | sortSwaps =>
      simp [elementsWritten] at he

/-! ### SORTED -/

/-- A filter marked sorted holds a value. -/
theorem sorted_nonempty_kept :
    KeptByParts (fun _ => True) fun s => s.sorted = true → 0 < s.count where
  fewer _ _ := trivial
  called := by
    rintro s _ hs ⟨cs, ls, bs, d, es, -, rfl⟩
    exact hs
  finish _ hs := hs
  raise _ hs := hs
  suspend _ _ _ _ hs := hs
  unwait hs := hs
  setGain _ hs := hs
  reconfigure _ h := by
    obtain ⟨-, rfl⟩ := State.reconfigure_ok.mp h
    exact nofun
  clearStep _ h := by
    obtain ⟨-, rfl⟩ := State.clearStep_ok.mp h
    exact nofun
  addStep _ h := by
    obtain ⟨-, rfl⟩ := State.addStep_ok.mp h
    exact nofun
  finishMedian := by
    intro s t hs h
    rcases Nat.eq_zero_or_pos s.count with hc | hc
    · cases (State.finishMedian_empty hc).symm.trans h
      exact hs
    · rw [State.finishMedian_frame h]
      exact fun _ => hc

/-- Only a median command sets SORTED (10_state R25). -/
theorem sets_sorted {i : Instr} {s t : State} (h : runsTo i s t) (hs : s.sorted = false)
    (ht : t.sorted = true) : i = .filterGetMedian ∨ ∃ times, i = .readMedian times := by
  have hw : Element.sorted ∈ elementsWritten i := by
    by_contra hn
    have hsame : t.sorted = s.sorted := same_of_runsTo h hn
    simp [hsame, hs] at ht
  cases i with
  | begin | setGain | isReady | read | powerDown | powerUp => simp [elementsWritten] at hw
  | filterConfigure req =>
    rw [exec_filterConfigure_next (exec_of_runsTo h nofun nofun)] at ht
    cases ht
  | filterClear =>
    rw [exec_filterClear_next (exec_of_runsTo h nofun nofun)] at ht
    cases ht
  | filterAdd value =>
    rw [exec_filterAdd_next (exec_of_runsTo h nofun nofun)] at ht
    cases ht
  | filterGetMedian => exact .inl rfl
  | readMedian times => exact .inr ⟨times, rfl⟩

/-- Settles O51: by what the command that runs writes, since settling it writes no element. -/
theorem whoWritesWhat : Obligations.WhoWritesWhat := by
  intro s t w hm hf h
  obtain ⟨hn, -⟩ | ⟨w', u, hf', rfl, hu⟩ := step_runs hm h
  · cases hf.symm.trans hn
  cases hf.symm.trans hf'
  have hparams : (u.settle w).params = u.params := by
    unfold State.settle
    split <;> rfl
  obtain ⟨-, e, hd, rfl⟩ | ⟨i, hd, hr⟩ := hu
  · rw [hd]
    exact ⟨hparams, fun e => Element.same_trans (e.same_finish ..) (e.same_settle w _)⟩
  have hp := (portKept_kept s).runsTo (fun _ _ => trivial) (.refl s) hr
  have hsorted : (u.settle w).sorted = u.sorted := Element.same_settle .sorted w u
  have hcount : (u.settle w).count = u.count := Element.same_settle .count w u
  rw [hd, hsorted, hcount]
  refine ⟨hparams.trans hp.params, fun e he => ?_, fun hs ht => ⟨sets_sorted hr hs ht, ?_⟩⟩
  · exact Element.same_trans (same_of_runsTo hr he) (e.same_settle w u)
  exact sorted_nonempty_kept.runsTo (fun _ _ => trivial) (fun hn => by simp [hs] at hn) hr ht

end Sys2Proof.Machine

/-!
READ_MEDIAN reading by reading (42_composite R180 to R187): an iteration of a wait by how it ends, a whole
reading, and a run of readings, as functions of the state.
-/

namespace Sys2Proof.Machine

/-! ### A run of adds -/

/-- The values `vs` added in order (41_filter R146). -/
def State.addedAll (vs : List Word) (s : State) : State :=
  vs.foldl (fun u v => u.added v) s

theorem State.addedAll_frame (vs : List Word) (s : State) :
    s.addedAll vs = { s with
      buf := (s.addedAll vs).buf
      writeIndex := (s.addedAll vs).writeIndex
      count := (s.addedAll vs).count
      sorted := (s.addedAll vs).sorted } := by
  induction vs generalizing s with
  | nil => rfl
  | cons v vs ih => exact (ih (s.added v)).trans rfl

@[simp] theorem State.addedAll_params (vs : List Word) (s : State) :
    (s.addedAll vs).params = s.params := by
  rw [State.addedAll_frame]

@[simp] theorem State.addedAll_capacity (vs : List Word) (s : State) :
    (s.addedAll vs).capacity = s.capacity := by
  rw [State.addedAll_frame]

@[simp] theorem State.addedAll_ord (vs : List Word) (s : State) : (s.addedAll vs).ord = s.ord := by
  rw [State.addedAll_frame]

@[simp] theorem State.addedAll_gainPulses (vs : List Word) (s : State) :
    (s.addedAll vs).gainPulses = s.gainPulses := by
  rw [State.addedAll_frame]

@[simp] theorem State.addedAll_status (vs : List Word) (s : State) :
    (s.addedAll vs).status = s.status := by
  rw [State.addedAll_frame]

@[simp] theorem State.addedAll_result (vs : List Word) (s : State) :
    (s.addedAll vs).result = s.result := by
  rw [State.addedAll_frame]

@[simp] theorem State.addedAll_sortSwaps (vs : List Word) (s : State) :
    (s.addedAll vs).sortSwaps = s.sortSwaps := by
  rw [State.addedAll_frame]

@[simp] theorem State.addedAll_program (vs : List Word) (s : State) :
    (s.addedAll vs).program = s.program := by
  rw [State.addedAll_frame]

@[simp] theorem State.addedAll_cp (vs : List Word) (s : State) :
    (s.addedAll vs).cp = s.cp := by
  rw [State.addedAll_frame]

@[simp] theorem State.addedAll_wait (vs : List Word) (s : State) :
    (s.addedAll vs).wait = s.wait := by
  rw [State.addedAll_frame]

theorem State.addedAll_sorted (vs : List Word) {s : State} (h : s.sorted = false) :
    (s.addedAll vs).sorted = false := by
  induction vs generalizing s with
  | nil => exact h
  | cons v vs ih => exact ih (s := s.added v) rfl

theorem State.FilterInv.addedAll {s : State} (h : s.FilterInv) (vs : List Word) :
    (s.addedAll vs).FilterInv := by
  induction vs generalizing s with
  | nil => exact h
  | cons v vs ih => exact ih (h.added v)

theorem State.FilterInv.addedAll_count {s : State} (h : s.FilterInv) (vs : List Word) :
    (s.addedAll vs).count = min (s.count + vs.length) s.capacity := by
  induction vs generalizing s with
  | nil => exact (Nat.min_eq_left h.count_le).symm
  | cons v vs ih =>
    have hc : (s.added v).capacity = s.capacity := rfl
    refine (ih (h.added v)).trans ?_
    rw [h.added_count v, hc, List.length_cons]
    omega

theorem State.FilterInv.addedAll_writeIndex {s : State} (h : s.FilterInv) (vs : List Word) :
    (s.addedAll vs).writeIndex = (s.writeIndex + vs.length) % s.capacity := by
  induction vs generalizing s with
  | nil => exact (Nat.mod_eq_of_lt h.writeIndex_lt).symm
  | cons v vs ih =>
    refine (ih (h.added v)).trans ?_
    show ((s.writeIndex + 1) % s.capacity + vs.length) % s.capacity = _
    rw [Nat.mod_add_mod, List.length_cons, Nat.add_assoc, Nat.add_comm 1]

/-- The last entries of a list that has lost some of its first ones before. -/
theorem lastOf_append_lastOf {α : Type} (n : Nat) (l m : List α) :
    lastOf n (lastOf n l ++ m) = lastOf n (l ++ m) := by
  simp only [lastOf, List.length_append, List.length_drop]
  rw [List.drop_append, List.drop_append, List.drop_drop, List.length_drop]
  congr 2 <;> omega

/-- A run of adds slides the window (10_state R28, item 6). -/
theorem State.FilterInv.addedAll_window {s : State} (h : s.FilterInv) (vs : List Word) :
    (s.addedAll vs).window = lastOf s.capacity (s.window ++ vs) := by
  induction vs generalizing s with
  | nil =>
    have hle : s.window.length ≤ s.capacity := h.window_length.trans_le h.count_le
    rw [List.append_nil, lastOf, Nat.sub_eq_zero_of_le hle]
    rfl
  | cons v vs ih =>
    refine (ih (h.added v)).trans ?_
    have hc : (s.added v).capacity = s.capacity := rfl
    rw [h.added_window v, hc, lastOf_append_lastOf, List.append_assoc]
    rfl

/-- A run of adds writes no entry of BUF above the values held after it. -/
theorem State.FilterInv.addedAll_buf_drop {s : State} (h : s.FilterInv) (vs : List Word) :
    (s.addedAll vs).buf.drop (s.addedAll vs).count = s.buf.drop (s.addedAll vs).count := by
  induction vs generalizing s with
  | nil => rfl
  | cons v vs ih =>
    refine (ih (h.added v)).trans ?_
    have hlt : s.writeIndex < ((s.added v).addedAll vs).count := by
      have hw := h.writeIndex_lt
      have hp := h.partly_filled
      have hc := h.count_le
      have hcap : (s.added v).capacity = s.capacity := rfl
      rw [(h.added v).addedAll_count, h.added_count, hcap]
      omega
    exact List.drop_set_of_lt hlt

/-! ### One iteration of a wait -/

/-- The state after an iteration that read the clock at `t` and found HIGH (40_reader R108). -/
def State.yielded (t : Word) (s : State) : State :=
  { s with
    clockIn := s.clockIn.drop 1
    levelIn := s.levelIn.drop 1
    drawn := s.drawn + 2
    history := s.history ++ highEvents s.params.dataPin t }

/-- The state after the wait of the reading `r` and its add, from after the start's clock read on. -/
def State.afterWait (r : Reading) (s : State) : State :=
  { s.added r.value with
    clockIn := s.clockIn.drop (r.highs.length + 1)
    levelIn := s.levelIn.drop (r.highs.length + 1)
    byteIn := s.byteIn.drop 3
    drawn := s.drawn + (2 * r.highs.length + 5)
    history := s.history ++ (r.highs.flatMap (highEvents s.params.dataPin) ++
      lowEvents s.params.dataPin s.params.clockPin s.gainPulses.toNat r.last r.b2 r.b1 r.b0) }

/-- The reading that an iteration of a wait takes if it finds LOW. -/
def State.lowReading (start : Word) (p : Nat) (s : State) : Reading where
  start := start
  highs := []
  last := s.pollAnswer start 1000 p
  b2 := s.byteAt 0 2
  b1 := s.byteAt 1 3
  b0 := s.byteAt 2 4

/-- Past the deadline READ_MEDIAN ends (42_composite R184). -/
theorem State.medianFrom_late {left : Nat} {start : Word} {p : Nat} {s : State}
    (h : 1000 ≤ (s.pollAnswer start 1000 p - start).toNat) :
    s.medianFrom left start p = .ok { s with
      clockIn := s.clockIn.drop 1
      drawn := s.drawn + 1
      history := s.history ++ [.now (s.pollAnswer start 1000 p)]
      status := .timedOut
      result := 0 } := by
  have hp := State.poll_deadline (timeout := Config.readMedianTimeout) h
  rw [State.medianFrom_eq, hp, State.pollNow_eq, List.drop_one]
  rfl

/-- A HIGH sample suspends READ_MEDIAN (42_composite R183). -/
theorem State.medianFrom_high {left : Nat} {start : Word} {p : Nat} {s : State}
    (h : (s.pollAnswer start 1000 p - start).toNat < 1000) (hl : s.levelAt 0 1 = .high) :
    s.medianFrom left start p =
      .ok ((s.yielded (s.pollAnswer start 1000 p)).suspend start (.median left) p) := by
  have hp := State.poll_sample (timeout := Config.readMedianTimeout) h
  rw [State.medianFrom_eq, hp, hl]
  simp only [State.yielded, highEvents, List.drop_one, List.append_assoc]
  rfl

/-- The shift-in and the add after a LOW sample, on a well formed filter (40_reader R110, 41_filter R146). -/
theorem State.FilterInv.addStep_of_low {start : Word} {p : Nat} {s : State} (hf : s.FilterInv)
    (h : (s.pollAnswer start 1000 p - start).toNat < 1000) (hl : s.levelAt 0 1 = .low) :
    (s.poll start Config.readMedianTimeout p).2.takeReading.2.addStep
        (s.poll start Config.readMedianTimeout p).2.takeReading.1 =
      .ok (s.afterWait (s.lowReading start p)) := by
  have hp := State.poll_sample (timeout := Config.readMedianTimeout) h
  rw [hp, hl, State.takeReading_eq]
  refine State.addStep_ok.mpr ⟨⟨hf.writeIndex_lt, hf.writeIndex_lt_buf⟩, ?_⟩
  simp [State.afterWait, State.lowReading, State.added, Reading.value, State.byteAt, lowEvents,
    Config.readMedianTimeout, Nat.add_assoc]

/-- A LOW sample takes a reading and adds it (42_composite R180). -/
theorem State.FilterInv.medianFrom_low {left : Nat} {start : Word} {p : Nat} {s : State}
    (hf : s.FilterInv) (h : (s.pollAnswer start 1000 p - start).toNat < 1000)
    (hl : s.levelAt 0 1 = .low) :
    s.medianFrom left start p = (s.afterWait (s.lowReading start p)).takeReadings left := by
  have hp := State.poll_sample (timeout := Config.readMedianTimeout) h
  have ha := hf.addStep_of_low h hl
  rw [hl] at hp
  rw [hp] at ha
  rw [State.medianFrom_eq, hp]
  simp only [ha]
  cases left <;> rfl

end Sys2Proof.Machine

/-!
READ_MEDIAN whose readings find LOW at once, up to its end, its first timeout or its first yield, and one
iteration of its wait.
-/

namespace Sys2Proof.Machine

/-! ### Whole readings -/

/-- The state after the readings `rs`, each of them whole, and their adds. -/
def State.afterReadings (rs : List Reading) (s : State) : State :=
  { s.addedAll (rs.map Reading.value) with
    clockIn := s.clockIn.drop (rs.flatMap Reading.clocks).length
    levelIn := s.levelIn.drop (rs.flatMap Reading.levels).length
    byteIn := s.byteIn.drop (rs.flatMap Reading.bytes).length
    drawn := s.drawn + (rs.map Reading.answers).sum
    history := s.history ++
      rs.flatMap (Reading.events s.params.dataPin s.params.clockPin s.gainPulses.toNat) }

theorem State.afterReadings_nil (s : State) : s.afterReadings [] = s := by
  simp [State.afterReadings, State.addedAll]

/-- Adds and host calls do not see one another (41_filter R140). -/
theorem State.addedAll_called (vs : List Word) (s : State) (cs : List Word) (ls : List Level)
    (bs : List Byte) (d : Nat) (es : List Event) :
    State.addedAll vs
        { s with clockIn := cs, levelIn := ls, byteIn := bs, drawn := d, history := es } =
      { s.addedAll vs with clockIn := cs, levelIn := ls, byteIn := bs, drawn := d, history := es } := by
  induction vs generalizing s with
  | nil => rfl
  | cons v vs ih => exact ih (s.added v)

/-- The first reading, then the others. -/
theorem State.afterReadings_cons (r : Reading) (rs : List Reading) (s : State) :
    s.afterReadings (r :: rs) = (s.afterReadings [r]).afterReadings rs := by
  have hadd := State.addedAll_called (rs.map Reading.value) (s.added r.value)
  have hone : s.addedAll [r.value] = s.added r.value := rfl
  simp only [State.afterReadings, List.map_cons, List.map_nil, hone, List.flatMap_cons,
    List.flatMap_nil, List.append_nil, List.length_append, List.sum_cons, List.sum_nil, Nat.add_zero]
  rw [hadd]
  simp only [List.drop_drop, Nat.add_assoc, List.append_assoc]
  rfl

theorem State.afterReadings_append (rs rs' : List Reading) (s : State) :
    s.afterReadings (rs ++ rs') = (s.afterReadings rs).afterReadings rs' := by
  induction rs generalizing s with
  | nil => rw [List.nil_append, State.afterReadings_nil]
  | cons r rs ih =>
    rw [List.cons_append, State.afterReadings_cons, ih, ← State.afterReadings_cons]

/-- A reading's start, wait and add. -/
theorem State.afterWait_now {r : Reading} {s : State} (hr : r.start = s.clockAnswer) :
    s.now.2.afterWait r = s.afterReadings [r] := by
  simp [State.afterWait, State.now_eq, State.afterReadings, State.addedAll, State.added, Reading.clocks,
    Reading.levels, Reading.bytes, Reading.answers, Reading.events, hr]
  exact ⟨rfl, by omega⟩

theorem State.FilterInv.afterReadings {s : State} (h : s.FilterInv) (rs : List Reading) :
    (s.afterReadings rs).FilterInv :=
  (h.addedAll (rs.map Reading.value)).congr

/-! ### Readings that find LOW at once -/

/-- Reading `k` of a run of readings that each find LOW at once. -/
def State.readingAt (s : State) (k : Nat) : Reading where
  start := s.startOf k
  highs := []
  last := s.clockOf k
  b2 := s.byteOf k 0
  b1 := s.byteOf k 1
  b0 := s.byteOf k 2

/-- The state after `k` readings that each find LOW at once. -/
def State.readAtOnce (k : Nat) (s : State) : State :=
  { s.addedAll (s.readings k) with
    clockIn := s.clockIn.drop (2 * k)
    levelIn := s.levelIn.drop k
    byteIn := s.byteIn.drop (3 * k)
    drawn := s.drawn + 6 * k
    history := s.history ++ s.readingsEvents k }

theorem State.clockAt_readAtOnce (s : State) (n k d : Nat) :
    (s.readAtOnce n).clockAt k d = s.clockAt (2 * n + k) (6 * n + d) := by
  simp [State.readAtOnce, State.clockAt, Nat.add_assoc]

theorem State.levelAt_readAtOnce (s : State) (n k d : Nat) :
    (s.readAtOnce n).levelAt k d = s.levelAt (n + k) (6 * n + d) := by
  simp [State.readAtOnce, State.levelAt, Nat.add_assoc]

theorem State.byteAt_readAtOnce (s : State) (n k d : Nat) :
    (s.readAtOnce n).byteAt k d = s.byteAt (3 * n + k) (6 * n + d) := by
  simp [State.readAtOnce, State.byteAt, Nat.add_assoc]

theorem State.readingAt_readAtOnce (s : State) (n : Nat) :
    (s.readAtOnce n).readingAt 0 = s.readingAt n := by
  simp [State.readingAt, State.startOf, State.clockOf, State.byteOf, State.clockAt_readAtOnce,
    State.byteAt_readAtOnce]

theorem State.readyAtOnce_readAtOnce {s : State} {n : Nat} (h : s.ReadyAtOnce n) :
    (s.readAtOnce n).ReadyAtOnce 0 := by
  simpa [State.ReadyAtOnce, State.startOf, State.clockOf, State.levelOf, State.clockAt_readAtOnce,
    State.levelAt_readAtOnce] using h

theorem State.readAtOnce_eq (s : State) (n : Nat) :
    s.readAtOnce n = s.afterReadings ((List.range n).map s.readingAt) := by
  have hvalues : ((List.range n).map s.readingAt).map Reading.value = s.readings n := by
    rw [List.map_map]
    rfl
  have hevents : ((List.range n).map s.readingAt).flatMap
      (Reading.events s.params.dataPin s.params.clockPin s.gainPulses.toNat) = s.readingsEvents n := by
    rw [List.flatMap_map]
    rfl
  simp only [State.readAtOnce, State.afterReadings, hvalues, hevents]
  simp [State.readingAt, Reading.clocks, Reading.levels, Reading.bytes, Reading.answers,
    List.length_flatMap, Function.comp_def, Nat.mul_comm]

/-- One reading more. -/
theorem State.readAtOnce_succ (s : State) (n : Nat) :
    s.readAtOnce (n + 1) = (s.readAtOnce n).afterReadings [(s.readAtOnce n).readingAt 0] := by
  rw [State.readingAt_readAtOnce, State.readAtOnce_eq, State.readAtOnce_eq, List.range_succ,
    List.map_append, State.afterReadings_append]
  rfl

theorem State.clockAnswer_start (s : State) : s.clockAnswer = s.startOf 0 :=
  s.clockAnswer_eq_clockAt

theorem State.now_start (s : State) : s.now.1 = s.startOf 0 :=
  s.clockAnswer_eq_clockAt

/-- The first iteration of a reading's wait is under no duty. -/
theorem State.pollAnswer_start (s : State) (start : Word) :
    s.now.2.pollAnswer start 1000 s.now.2.freshPatience = s.clockOf 0 := by
  rw [State.pollAnswer_fresh, State.clockAt_now]
  rfl

theorem State.startOf_readAtOnce (s : State) (n : Nat) :
    (s.readAtOnce n).startOf 0 = s.startOf n ∧ (s.readAtOnce n).clockOf 0 = s.clockOf n :=
  ⟨congrArg Reading.start (s.readingAt_readAtOnce n), congrArg Reading.last (s.readingAt_readAtOnce n)⟩

/-- A reading that finds LOW at once. -/
theorem State.FilterInv.takeReadings_succ {n : Nat} {s : State} (hf : s.FilterInv)
    (h : s.ReadyAtOnce 0) :
    s.takeReadings (n + 1) = (s.afterReadings [s.readingAt 0]).takeReadings n := by
  have hf' : s.now.2.FilterInv := hf.congr
  have hr : s.now.2.lowReading s.now.1 s.now.2.freshPatience = s.readingAt 0 := by
    rw [State.lowReading, s.pollAnswer_start, s.now_start, State.byteAt_now, State.byteAt_now,
      State.byteAt_now]
    rfl
  obtain ⟨hclock, hlevel⟩ := h
  have hlow := hf'.medianFrom_low (left := n) (start := s.now.1) (p := s.now.2.freshPatience)
    (by rw [s.pollAnswer_start, s.now_start]; exact hclock) (by rw [State.levelAt_now]; exact hlevel)
  rw [State.takeReadings, hlow, hr, State.afterWait_now s.clockAnswer_start.symm]

/-- The first `k` readings find LOW at once. -/
theorem State.FilterInv.takeReadings_atOnce {k m : Nat} {s : State} (hf : s.FilterInv)
    (h : ∀ j < k, s.ReadyAtOnce j) : s.takeReadings (k + m) = (s.readAtOnce k).takeReadings m := by
  induction k generalizing m with
  | zero =>
    rw [Nat.zero_add, State.readAtOnce_eq, List.range_zero, List.map_nil, State.afterReadings_nil]
  | succ k ih =>
    have hk : (s.readAtOnce k).FilterInv :=
      (hf.addedAll (s.readings k)).congr
    rw [Nat.succ_add_eq_add_succ, ih fun j hj => h j (by omega),
      hk.takeReadings_succ (State.readyAtOnce_readAtOnce (h k (by omega))), ← State.readAtOnce_succ]

/-! ### READ_MEDIAN from its start -/

/-- READ_MEDIAN of a positive count clears a filter of the clamped capacity and takes its readings
(42_composite R180, R182). -/
theorem exec_readMedian_eq {times : Word} {s : State} {n : Nat} (hs : s.Inv) (hn : times.toInt = n)
    (h0 : 0 < n) :
    exec (.readMedian times) s = answer ((s.cleared (clamp s.params times)).takeReadings n) := by
  have hpos : ¬ s32 times ≤ 0 := by
    have : s32 times = times.toInt := rfl
    omega
  have hcap : clamp s.params times ≤ s.ord.length :=
    hs.filter.ord_length ▸ (clamp_range hs.params_wf times).2
  obtain ⟨m, rfl⟩ := Nat.exists_eq_succ_of_ne_zero h0.ne'
  have hleft : (s32 times).toNat - 1 = m := by
    have : s32 times = times.toInt := rfl
    omega
  show execReadMedian times s = _
  rw [execReadMedian, if_neg hpos, State.reconfigure_eq hcap, hleft]
  rfl

theorem State.Inv.cleared {s : State} (hs : s.Inv) (times : Word) :
    (s.cleared (clamp s.params times)).FilterInv :=
  hs.filter.cleared hs.params_wf (clamp_range hs.params_wf times).1 (clamp_range hs.params_wf times).2

/-- The window of a cleared filter is empty. -/
theorem State.FilterInv.cleared_window {s : State} {c : Nat} (h : (s.cleared c).FilterInv) :
    (s.cleared c).window = [] :=
  List.eq_nil_of_length_eq_zero h.window_length

/-- A fresh filter of capacity `c` after the values `vs` (42_composite R182, R187). -/
theorem State.FilterInv.cleared_addedAll {s : State} {c : Nat} (h : (s.cleared c).FilterInv)
    (vs : List Word) :
    ((s.cleared c).addedAll vs).count = min vs.length c ∧
      ((s.cleared c).addedAll vs).writeIndex = vs.length % c ∧
      ((s.cleared c).addedAll vs).window = lastOf c vs ∧
      ((s.cleared c).addedAll vs).buf.drop (min vs.length c) = s.buf.drop (min vs.length c) := by
  have hcount := h.addedAll_count vs
  have hwrite := h.addedAll_writeIndex vs
  have hwindow := h.addedAll_window vs
  have hdrop := h.addedAll_buf_drop vs
  have hzero : (s.cleared c).count + vs.length = vs.length := Nat.zero_add _
  have hzero' : (s.cleared c).writeIndex + vs.length = vs.length := Nat.zero_add _
  rw [h.cleared_window, List.nil_append] at hwindow
  rw [hzero] at hcount
  rw [hzero'] at hwrite
  rw [hcount] at hdrop
  exact ⟨hcount, hwrite, hwindow, hdrop⟩

theorem State.identityOrd_take {s : State} {c n : Nat} (h : n ≤ c) :
    (s.identityOrd c).take n = List.range n := by
  rw [State.identityOrd, List.take_append_of_le_length (by simpa using h), List.take_range,
    Nat.min_eq_left h]

/-- The state after a fresh filter of capacity `c`, the readings `rs` and the median step. -/
def State.medianDone (c : Nat) (rs : List Reading) (s : State) : State :=
  ((s.cleared c).afterReadings rs).medianTaken.finish .ok (medianOf (lastOf c (rs.map Reading.value)))

/-- READ_MEDIAN's median step gives the median of the last readings (42_composite R185). -/
theorem State.FilterInv.finishMedian_afterReadings {s : State} {c : Nat} (h : (s.cleared c).FilterInv)
    {rs : List Reading} (hne : 0 < rs.length) :
    ((s.cleared c).afterReadings rs).finishMedian = .ok (s.medianDone c rs) := by
  have hu := h.afterReadings rs
  obtain ⟨hcount, -, hwindow, -⟩ := h.cleared_addedAll (rs.map Reading.value)
  rw [List.length_map] at hcount
  have hc : 0 < c := h.writeIndex_lt
  have hpos : 0 < ((s.cleared c).afterReadings rs).count := by
    refine Nat.lt_of_lt_of_eq ?_ hcount.symm
    omega
  have hwindow' : ((s.cleared c).afterReadings rs).window = lastOf c (rs.map Reading.value) := hwindow
  rw [hu.finishMedian_eq hpos, ← medianOf_perm hu.window_perm_held, hwindow']
  rfl

/-- ORD after READ_MEDIAN's median step, and SORT_SWAPS (10_state R22, R31): the sort started from the
identity. -/
theorem State.FilterInv.medianDone_ord {s : State} {c : Nat} (h : (s.cleared c).FilterInv)
    (rs : List Reading) :
    (s.medianDone c rs).ord.take (min rs.length c) =
        orderBy (s.medianDone c rs).buf (List.range (min rs.length c)) ∧
      (s.medianDone c rs).ord.drop (min rs.length c) = (s.identityOrd c).drop (min rs.length c) ∧
      (s.medianDone c rs).sortSwaps =
        inversionsBy (s.medianDone c rs).buf (List.range (min rs.length c)) := by
  have hu := h.afterReadings rs
  obtain ⟨hcount, -⟩ := h.cleared_addedAll (rs.map Reading.value)
  rw [List.length_map] at hcount
  have hcount' : ((s.cleared c).afterReadings rs).count = min rs.length c := hcount
  have hord : ((s.cleared c).afterReadings rs).ord = s.identityOrd c := State.addedAll_ord ..
  have htake := hu.sortedOrd_take
  have hdrop := hu.sortedOrd_drop
  rw [hcount', hord] at htake hdrop
  rw [State.identityOrd_take (Nat.min_le_right _ _)] at htake
  refine ⟨htake, hdrop, ?_⟩
  show inversionsBy _ (((s.cleared c).afterReadings rs).ord.take _) = _
  rw [hcount', hord, State.identityOrd_take (Nat.min_le_right _ _)]
  rfl

/-- What `n` readings at once leave of the engine. -/
theorem State.Inv.afterReadings {s : State} (hs : s.Inv) (times : Word) (n : Nat) :
    s.AfterReadings (clamp s.params times) n ((s.cleared (clamp s.params times)).readAtOnce n) := by
  have hreadings : (s.cleared (clamp s.params times)).readings n = s.readings n := rfl
  have hlen : ((s.cleared (clamp s.params times)).readings n).length = n := by simp [State.readings]
  obtain ⟨hcount, hwrite, hwindow, hdrop⟩ :=
    (hs.cleared times).cleared_addedAll ((s.cleared (clamp s.params times)).readings n)
  rw [hlen] at hcount hwrite hdrop
  exact
    { params := State.addedAll_params ..
      gainPulses := State.addedAll_gainPulses ..
      program := State.addedAll_program ..
      cp := State.addedAll_cp ..
      capacity := State.addedAll_capacity ..
      count := hcount
      writeIndex := hwrite
      window := hwindow.trans (congrArg (lastOf _) hreadings)
      buf_above := hdrop }

/-- `State.AfterReadings` leaves the rest of the state open. -/
theorem State.AfterReadings.congr {s t u : State} {c n : Nat} (h : s.AfterReadings c n t)
    (hu : u = { t with
      sorted := u.sorted
      ord := u.ord
      status := u.status
      result := u.result
      sortSwaps := u.sortSwaps
      wait := u.wait
      history := u.history
      clockIn := u.clockIn
      levelIn := u.levelIn
      byteIn := u.byteIn
      drawn := u.drawn }) : s.AfterReadings c n u := by
  rw [hu]
  exact
    { params := h.params
      gainPulses := h.gainPulses
      program := h.program
      cp := h.cp
      capacity := h.capacity
      count := h.count
      writeIndex := h.writeIndex
      window := h.window
      buf_above := h.buf_above }

/-- The end of READ_MEDIAN whose readings all find LOW at once. -/
theorem State.medianDone_atOnce (s : State) (c n : Nat) :
    s.medianDone c ((List.range n).map s.readingAt) =
      ((s.cleared c).readAtOnce n).medianTaken.finish .ok (medianOf (lastOf c (s.readings n))) := by
  have hvalues : ((List.range n).map s.readingAt).map Reading.value = s.readings n := by
    rw [List.map_map]
    rfl
  rw [State.medianDone, hvalues, State.readAtOnce_eq]
  rfl

/-- Settles O41: after the readings at once the median step ends the command. -/
theorem readMedianCompletes : Obligations.ReadMedianCompletes := by
  intro times s n hs hn h0 hready
  have hf := hs.cleared times
  have hlen : ((List.range n).map s.readingAt).length = n := by simp
  have hdone := hf.finishMedian_afterReadings (rs := (List.range n).map s.readingAt) (hlen.symm ▸ h0)
  have hord := hf.medianDone_ord ((List.range n).map s.readingAt)
  rw [hlen, State.medianDone_atOnce] at hord
  obtain ⟨htake, hdrop, hswaps⟩ := hord
  have hrun : (s.cleared (clamp s.params times)).takeReadings n = .ok _ :=
    (hf.takeReadings_atOnce (m := 0) hready).trans
      ((congrArg State.finishMedian (State.readAtOnce_eq _ n)).trans hdone)
  rw [State.medianDone_atOnce] at hrun
  refine ⟨_, ?_, (hs.afterReadings times n).congr rfl, rfl, rfl, rfl, htake, hdrop, hswaps, ?_, rfl, rfl,
    rfl, rfl, rfl⟩
  · rw [exec_readMedian_eq hs hn h0, hrun]
    rfl
  · exact State.addedAll_wait ..

/-- READ_MEDIAN up to the start of a reading, the readings before which found LOW at once. -/
theorem exec_readMedian_atOnce {times : Word} {s : State} {n k : Nat} (hs : s.Inv)
    (hn : times.toInt = n) (hk : k < n) (hready : ∀ j < k, s.ReadyAtOnce j) :
    exec (.readMedian times) s =
      answer (((s.cleared (clamp s.params times)).readAtOnce k).takeReadings (n - 1 - k + 1)) := by
  have hsplit : n = k + (n - 1 - k + 1) := by omega
  rw [exec_readMedian_eq hs hn (by omega)]
  conv_lhs => rw [hsplit, (hs.cleared times).takeReadings_atOnce hready]

/-- A reading whose deadline check fires at once (42_composite R184). -/
theorem State.takeReadings_late {n : Nat} {s : State}
    (h : 1000 ≤ (s.clockOf 0 - s.startOf 0).toNat) :
    s.takeReadings (n + 1) = .ok { s with
      clockIn := s.clockIn.drop 2
      drawn := s.drawn + 2
      history := s.history ++ [.now (s.startOf 0), .now (s.clockOf 0)]
      status := .timedOut
      result := 0 } := by
  have hlate := State.medianFrom_late (left := n) (start := s.now.1) (s := s.now.2)
    (by rw [s.pollAnswer_start, s.now_start]; exact h)
  rw [State.takeReadings, hlate, s.pollAnswer_start]
  simp [State.now_eq, s.clockAnswer_start]

/-- A reading that finds HIGH at once (42_composite R183). -/
theorem State.takeReadings_high {n : Nat} {s : State} (h : (s.clockOf 0 - s.startOf 0).toNat < 1000)
    (hl : s.levelOf 0 = .high) :
    s.takeReadings (n + 1) = .ok { s with
      clockIn := s.clockIn.drop 2
      levelIn := s.levelIn.drop 1
      drawn := s.drawn + 3
      history := s.history ++
        [.now (s.startOf 0), .now (s.clockOf 0), .pinRead s.params.dataPin .high, .yield]
      wait := some { start := s.startOf 0, task := .median n, patience := s.patienceAt 0 } } := by
  have hhigh := State.medianFrom_high (left := n) (start := s.now.1) (s := s.now.2)
    (by rw [s.pollAnswer_start, s.now_start]; exact h) (by rw [State.levelAt_now]; exact hl)
  rw [State.takeReadings, hhigh, s.pollAnswer_start, s.now_start]
  simp [State.now_eq, s.clockAnswer_start, State.suspend, State.yielded, highEvents,
    State.freshPatience, State.patienceAt]

/-- Settles O42: the wait of the reading that times out ends at its deadline check. -/
theorem readMedianTimesOut : Obligations.ReadMedianTimesOut := by
  intro times s n k hs hn hk hready hlate
  obtain ⟨hstart, hclock⟩ := (s.cleared (clamp s.params times)).startOf_readAtOnce k
  have hrun := exec_readMedian_atOnce hs hn hk hready
  rw [State.takeReadings_late (by rw [hstart, hclock]; exact hlate), hstart, hclock] at hrun
  refine ⟨_, hrun, (hs.afterReadings times k).congr rfl, rfl, rfl, State.addedAll_sorted _ rfl,
    State.addedAll_sortSwaps .., State.addedAll_ord .., State.addedAll_wait .., List.drop_drop, rfl,
    rfl, rfl, rfl⟩

/-- Settles O43: the wait of the reading that finds HIGH is suspended at its yield. -/
theorem readMedianYields : Obligations.ReadMedianYields := by
  intro times s n k hs hn hk hready hclock' hlevel
  obtain ⟨hstart, hclock⟩ := (s.cleared (clamp s.params times)).startOf_readAtOnce k
  have hlevel' : ((s.cleared (clamp s.params times)).readAtOnce k).levelOf 0 = .high :=
    (State.levelAt_readAtOnce ..).trans hlevel
  have hrun := exec_readMedian_atOnce hs hn hk hready
  rw [State.takeReadings_high (by rw [hstart, hclock]; exact hclock') hlevel', hstart, hclock] at hrun
  refine ⟨_, hrun, (hs.afterReadings times k).congr rfl, rfl, State.addedAll_ord ..,
    State.addedAll_status .., State.addedAll_result .., State.addedAll_sorted _ rfl,
    State.addedAll_sortSwaps .., List.drop_drop, List.drop_drop, rfl, rfl, ?_⟩
  show _ ++ [_, _, Event.pinRead (State.params _).dataPin _, _] = _
  rw [(hs.afterReadings times k).params]
  rfl

end Sys2Proof.Machine

/-!
READ_MEDIAN across its waits: one step of a wait (42_composite R183, R184), and the whole run of its steps.
-/

namespace Sys2Proof.Machine

/-! ### One step of a waiting READ_MEDIAN -/

/-- The state a waiting command goes on from. -/
def State.unwaited (s : State) : State :=
  { s with wait := none }

theorem State.FilterInv.unwaited {s : State} (h : s.FilterInv) : s.unwaited.FilterInv :=
  h.congr

theorem State.unwaited_of_none {s : State} (h : s.wait = none) : s.unwaited = s := by
  cases s
  subst h
  rfl

theorem step_of_medianWait {s : State} {w : CommandWord} {start : Word} {left p : Nat}
    (hp : s.params.wellFormed = true) (hf : s.fetch = some w)
    (hw : s.wait = some { start := start, task := .median left, patience := p }) :
    step s = settleAnswer w (answer (s.unwaited.medianFrom left start p)) :=
  step_of_wait hp hw hf

/-- A command that has finished completes. -/
theorem settleAnswer_finished {w : CommandWord} {s : State} (h : s.wait = none) :
    settleAnswer w (.next s) = .next (s.complete w) :=
  congrArg Host.Outcome.next (State.settle_of_wait_none w h)

/-- The state of a READ_MEDIAN that waits for the first iteration of a reading it has started, `left` more
to follow. -/
def State.started (left : Nat) (s : State) : State :=
  { s.now.2 with
    wait := some { start := s.now.1, task := .median left, patience := s.now.2.freshPatience } }

/-- The start of a reading goes on as from a wait of that reading, with its own start and patience. -/
theorem step_of_started {s : State} {w : CommandWord} {m : Nat}
    (hp : s.params.wellFormed = true) (hf : s.fetch = some w) (hw : s.wait = none) :
    step (s.started m) = settleAnswer w (answer (s.takeReadings (m + 1))) := by
  have hn : (s.started m).unwaited = s.now.2 := State.unwaited_of_none (s := s.now.2) hw
  rw [step_of_medianWait (s := s.started m) hp hf rfl, hn]
  rfl

/-- A step of a wait past its deadline. -/
theorem step_medianWait_late {s : State} {w : CommandWord} {start : Word} {left p : Nat} (hs : s.Inv)
    (hf : s.fetch = some w)
    (hw : s.wait = some { start := start, task := .median left, patience := p })
    (hlate : 1000 ≤ (s.pollAnswer start 1000 p - start).toNat) :
    step s = .next { s with
      clockIn := s.clockIn.drop 1
      drawn := s.drawn + 1
      history := s.history ++ [.now (s.pollAnswer start 1000 p), .command w .timedOut 0]
      status := .timedOut
      result := 0
      wait := none
      cp := s.cp + 1 } := by
  rw [step_of_medianWait hs.params_wf hf hw, State.medianFrom_late (s := s.unwaited) hlate, answer,
    settleAnswer_finished rfl, State.complete, State.record, List.append_assoc]
  rfl

/-- The state in which LOW on the last reading leaves READ_MEDIAN, before its completion. -/
theorem medianFrom_last {s : State} {start : Word} {p : Nat} (hs : s.Inv)
    (hclock : (s.pollAnswer start 1000 p - start).toNat < 1000)
    (hlevel : s.levelAt 0 1 = .low) :
    s.unwaited.medianFrom 0 start p =
      .ok ((s.unwaited.afterWait (s.lowReading start p)).medianTaken.finish .ok
        (medianOf (s.added (s.lowReading start p).value).held)) := by
  have hf := hs.filter.unwaited
  have hu : (s.unwaited.afterWait (s.lowReading start p)).FilterInv :=
    (hf.added (s.lowReading start p).value).congr
  refine (hf.medianFrom_low hclock hlevel).trans ?_
  exact hu.finishMedian_eq (hf.added_count_pos (s.lowReading start p).value)

/-- Settles O44: the four ways an iteration ends are those of `State.medianFrom` on the state without its
wait. -/
theorem medianWaitIteration : Obligations.MedianWaitIteration := by
  intro s w start left p hs hf hw
  have hstep := step_of_medianWait hs.params_wf hf hw
  refine ⟨step_medianWait_late hs hf hw, fun hclock hlevel => ?_, fun hclock hlevel hleft => ?_,
    fun m hclock hlevel hleft => ?_⟩
  · rw [hstep, State.medianFrom_high (s := s.unwaited) hclock hlevel]
    rfl
  · subst hleft
    have hu := hs.filter.added (s.lowReading start p).value
    refine ⟨_, _, (s.added (s.lowReading start p).value).sortedOrd, rfl, rfl, hu.sortedOrd_take,
      hu.sortedOrd_drop, ?_⟩
    rw [hstep, medianFrom_last hs hclock hlevel, answer, settleAnswer_finished rfl]
    rfl
  · subst hleft
    have hlow := hs.filter.unwaited.medianFrom_low (left := m + 1) hclock hlevel
    have hanswer : (s.unwaited.afterWait (s.unwaited.lowReading start p)).clockAnswer = s.clockAt 1 5 := by
      simp [State.clockAnswer, State.clockAt, State.afterWait, State.unwaited, State.lowReading]
    have htail : (s.unwaited.afterWait (s.unwaited.lowReading start p)).clockIn.tail = s.clockIn.drop 2 :=
      List.tail_drop
    rw [hstep, hlow, ← step_of_started (s := s.unwaited.afterWait (s.unwaited.lowReading start p))
      hs.params_wf hf rfl, State.started, State.now_eq, hanswer, htail]
    rfl

/-! ### The run of READ_MEDIAN -/

/-- `n` steps of the machine. -/
def runSteps (n : Nat) (s : State) : Answer :=
  Host.Core.run core n s

/-- `n` more steps after the one in which the command `w` did `x`. -/
def runOn (w : CommandWord) (n : Nat) (x : Except Fault State) : Answer :=
  match settleAnswer w (answer x) with
  | .next t => runSteps n t
  | .fault f => .fault f
  | .refused r => .refused r

theorem runSteps_succ {s : State} {w : CommandWord} {x : Except Fault State}
    (h : step s = settleAnswer w (answer x)) (n : Nat) : runSteps (n + 1) s = runOn w n x := by
  have hstep : core.step s = settleAnswer w (answer x) := h
  refine (Host.Core.run.eq_2 core s n).trans ?_
  rw [hstep, runOn]
  cases settleAnswer w (answer x) <;> rfl

theorem runOn_waiting {w : CommandWord} {s : State} {wait : Wait} (h : s.wait = some wait) (n : Nat) :
    runOn w n (.ok s) = runSteps n s := by
  rw [runOn, answer, settleAnswer, State.settle_of_wait_some w h]

theorem runOn_finished {w : CommandWord} {s : State} (h : s.wait = none) :
    runOn w 0 (.ok s) = .next (s.complete w) := by
  rw [runOn, answer, settleAnswer_finished h]
  rfl

/-- The command `w` can go on from the state: it is presented, the configuration and the filter are well
formed, and no wait stands. -/
structure State.Running (w : CommandWord) (s : State) : Prop where
  params_wf : s.params.wellFormed = true
  fetch : s.fetch = some w
  wait : s.wait = none
  filter : s.FilterInv

theorem State.Running.yielded {w : CommandWord} {s : State} (h : s.Running w) (t : Word) :
    (s.yielded t).Running w :=
  ⟨h.params_wf, h.fetch, h.wait, h.filter.congr⟩

theorem State.Running.now {w : CommandWord} {s : State} (h : s.Running w) : s.now.2.Running w :=
  ⟨h.params_wf, h.fetch, h.wait, h.filter.congr⟩

theorem State.Running.afterReadings {w : CommandWord} {s : State} (h : s.Running w)
    (rs : List Reading) : (s.afterReadings rs).Running w := by
  have hprogram : (s.afterReadings rs).program = s.program := State.addedAll_program ..
  have hcp : (s.afterReadings rs).cp = s.cp := State.addedAll_cp ..
  refine ⟨?_, ?_, ?_, h.filter.afterReadings rs⟩
  · exact (congrArg Params.wellFormed (State.addedAll_params ..)).trans h.params_wf
  · rw [State.fetch, hprogram, hcp]
    exact h.fetch
  · exact (State.addedAll_wait ..).trans h.wait

/-- A wait that finds HIGH once more is suspended, and the next step goes on with it. -/
theorem State.Running.runOn_high {w : CommandWord} {s : State} (h : s.Running w) {left p n : Nat}
    {start : Word} (hclock : (s.pollAnswer start 1000 p - start).toNat < 1000)
    (hlevel : s.levelAt 0 1 = .high) :
    runOn w (n + 1) (s.medianFrom left start p) =
      runOn w n ((s.yielded (s.pollAnswer start 1000 p)).medianFrom left start (p - 1)) := by
  rw [State.medianFrom_high hclock hlevel, runOn_waiting rfl,
    runSteps_succ (step_of_medianWait
      (s := (s.yielded (s.pollAnswer start 1000 p)).suspend start (.median left) p)
      h.params_wf h.fetch rfl)]
  exact congrArg (fun u => runOn w n (State.medianFrom left start (p - 1) u))
    (State.unwaited_of_none (s := s.yielded _) h.wait)

theorem State.afterWait_yielded (start t last : Word) (highs : List Word) (b2 b1 b0 : Byte) (s : State) :
    (s.yielded t).afterWait ⟨start, highs, last, b2, b1, b0⟩ =
      s.afterWait ⟨start, t :: highs, last, b2, b1, b0⟩ := by
  simp [State.afterWait, State.yielded, State.added, Reading.value]
  omega

/-- The wait of a reading in time, one more step for each HIGH sample (40_reader R108, 42_composite R183). -/
theorem State.Running.runOn_wait {w : CommandWord} {left n : Nat} {r : Reading} (hr : r.inTime 1000)
    {cs : List Word} {ls : List Level} {bs : List Byte} {p : Nat} {s : State} (h : s.Running w)
    (hcs : s.clockIn = r.highs ++ r.last :: cs)
    (hls : s.levelIn = List.replicate r.highs.length .high ++ .low :: ls)
    (hbs : s.byteIn = r.b2 :: r.b1 :: r.b0 :: bs) :
    runOn w (r.highs.length + n) (s.medianFrom left r.start p) =
      runOn w n ((s.afterWait r).takeReadings left) := by
  obtain ⟨start, highs, last, b2, b1, b0⟩ := r
  induction highs generalizing s p with
  | nil =>
    have hanswer : s.pollAnswer start 1000 p = last := State.pollAnswer_cons hcs
    have hlevel : s.levelAt 0 1 = .low := by simp [State.levelAt, hls]
    have hread : s.lowReading start p = ⟨start, [], last, b2, b1, b0⟩ := by
      rw [State.lowReading, hanswer]
      simp [State.byteAt, hbs]
    have hlow := h.filter.medianFrom_low (left := left) (start := start) (p := p)
      (by rw [hanswer]; exact hr.2) hlevel
    rw [hread] at hlow
    exact congr (congrArg (runOn w) (Nat.zero_add n)) hlow
  | cons t highs ih =>
    have hanswer : s.pollAnswer start 1000 p = t := State.pollAnswer_cons hcs
    have hlevel : s.levelAt 0 1 = .high := by simp [State.levelAt, hls, List.replicate_succ]
    have hhigh := h.runOn_high (left := left) (p := p) (n := highs.length + n) (start := start)
      (by rw [hanswer]; exact hr.1 t List.mem_cons_self) hlevel
    rw [hanswer] at hhigh
    have hrec := ih (p := p - 1) (h.yielded t) ⟨fun t' ht' => hr.1 t' (List.mem_cons_of_mem t ht'), hr.2⟩
      (by simp [State.yielded, hcs]) (by simp [State.yielded, hls, List.replicate_succ])
      (by simpa [State.yielded] using hbs)
    rw [← State.afterWait_yielded, ← hrec, ← hhigh]
    exact congrArg (fun k => runOn w k _) (Nat.succ_add ..)

/-- The readings `rs`, one more step for each of their HIGH samples (42_composite R180). -/
theorem State.Running.runOn_readings {w : CommandWord} {rs : List Reading}
    (hrs : ∀ r ∈ rs, r.inTime 1000) {cs : List Word} {ls : List Level} {bs : List Byte} {s : State}
    (h : s.Running w) (hcs : s.clockIn = rs.flatMap Reading.clocks ++ cs)
    (hls : s.levelIn = rs.flatMap Reading.levels ++ ls)
    (hbs : s.byteIn = rs.flatMap Reading.bytes ++ bs) :
    runOn w ((rs.map fun r => r.highs.length).sum) (s.takeReadings rs.length) =
      runOn w 0 ((s.afterReadings rs).finishMedian) := by
  induction rs generalizing s with
  | nil => rw [State.afterReadings_nil]; rfl
  | cons r rs ih =>
    have hstart : s.clockAnswer = r.start := State.clockAnswer_cons hcs
    have hwait := h.now.runOn_wait (left := rs.length) (n := (rs.map fun r => r.highs.length).sum)
      (p := s.now.2.freshPatience) (hrs r List.mem_cons_self)
      (cs := rs.flatMap Reading.clocks ++ cs) (ls := rs.flatMap Reading.levels ++ ls)
      (bs := rs.flatMap Reading.bytes ++ bs) (by simp [State.now_eq, hcs, Reading.clocks])
      (by simp [State.now_eq, hls, Reading.levels]) (by simp [State.now_eq, hbs, Reading.bytes])
    have hrec := ih (fun r' hr' => hrs r' (List.mem_cons_of_mem r hr')) (h.afterReadings [r])
      (by simp [State.afterReadings, hcs]) (by simp [State.afterReadings, hls])
      (by simp [State.afterReadings, hbs])
    rw [State.afterWait_now hstart.symm] at hwait
    rw [State.afterReadings_cons, ← hrec, ← hwait, ← hstart]
    rfl

theorem State.Inv.cleared_running {s : State} {w : CommandWord} (hs : s.Inv) (hw : s.wait = none)
    (hf : s.fetch = some w) (times : Word) : (s.cleared (clamp s.params times)).Running w :=
  ⟨hs.params_wf, hf, hw, hs.cleared times⟩

/-- READ_MEDIAN runs to the end of its median step. -/
theorem run_readMedian {s : State} {w : CommandWord} {times : Word} {rs : List Reading}
    {cs : List Word} {ls : List Level} {bs : List Byte} (hs : s.Inv) (hw : s.wait = none)
    (hf : s.fetch = some w) (hd : decode w = .ok (.readMedian times))
    (hn : times.toInt = rs.length) (hne : 0 < rs.length) (hrs : ∀ r ∈ rs, r.inTime 1000)
    (hcs : s.clockIn = rs.flatMap Reading.clocks ++ cs)
    (hls : s.levelIn = rs.flatMap Reading.levels ++ ls)
    (hbs : s.byteIn = rs.flatMap Reading.bytes ++ bs) :
    runSteps ((rs.map fun r => r.highs.length).sum + 1) s =
      .next ((s.medianDone (clamp s.params times) rs).complete w) := by
  have hrunning := hs.cleared_running hw hf times
  have hwait : (s.medianDone (clamp s.params times) rs).wait = none :=
    (hrunning.afterReadings rs).wait
  have hstep := step_of_command hs.params_wf hw hf hd
  rw [exec_readMedian_eq hs hn hne] at hstep
  calc runSteps ((rs.map fun r => r.highs.length).sum + 1) s
      = runOn w (rs.map fun r => r.highs.length).sum
          ((s.cleared (clamp s.params times)).takeReadings rs.length) := runSteps_succ hstep _
    _ = runOn w 0 ((s.cleared (clamp s.params times)).afterReadings rs).finishMedian :=
        hrunning.runOn_readings hrs hcs hls hbs
    _ = runOn w 0 (.ok (s.medianDone (clamp s.params times) rs)) :=
        congrArg (runOn w 0) ((hs.cleared times).finishMedian_afterReadings hne)
    _ = .next ((s.medianDone (clamp s.params times) rs).complete w) := runOn_finished hwait

/-- The completed READ_MEDIAN, field by field. -/
theorem State.medianDone_complete (c : Nat) (rs : List Reading) (w : CommandWord) (s : State) :
    (s.medianDone c rs).complete w = { s with
      capacity := ((s.cleared c).addedAll (rs.map Reading.value)).capacity
      count := ((s.cleared c).addedAll (rs.map Reading.value)).count
      writeIndex := ((s.cleared c).addedAll (rs.map Reading.value)).writeIndex
      sorted := true
      buf := ((s.cleared c).addedAll (rs.map Reading.value)).buf
      ord := (s.medianDone c rs).ord
      status := .ok
      result := medianOf (lastOf c (rs.map Reading.value))
      sortSwaps := (s.medianDone c rs).sortSwaps
      cp := s.cp + 1
      clockIn := s.clockIn.drop (rs.flatMap Reading.clocks).length
      levelIn := s.levelIn.drop (rs.flatMap Reading.levels).length
      byteIn := s.byteIn.drop (rs.flatMap Reading.bytes).length
      drawn := s.drawn + (rs.map Reading.answers).sum
      history := s.history ++
        rs.flatMap (Reading.events s.params.dataPin s.params.clockPin s.gainPulses.toNat) ++
        [.command w .ok (medianOf (lastOf c (rs.map Reading.value)))] } := by
  have hframe := (s.cleared c).addedAll_frame (rs.map Reading.value)
  rw [State.medianDone, State.afterReadings, hframe]
  rfl

/-- Settles O45: the run ends in the completed median step, after the readings. -/
theorem readMedianRun : Obligations.ReadMedianRun := by
  intro s w times rs cs ls bs hs hw hf hd hn hne hrs hcs hls hbs
  obtain ⟨hcount, hwrite, hwindow, hbuf⟩ := (hs.cleared times).cleared_addedAll (rs.map Reading.value)
  obtain ⟨htake, hdrop, hswaps⟩ := (hs.cleared times).medianDone_ord rs
  rw [List.length_map] at hcount hwrite hbuf
  have hcap := State.addedAll_capacity (rs.map Reading.value) (s.cleared (clamp s.params times))
  have hrun := run_readMedian hs hw hf hd hn hne hrs hcs hls hbs
  rw [State.medianDone_complete] at hrun
  refine ⟨_, hrun, rfl, hw, rfl, rfl, rfl, rfl, rfl, hcap, hcount, rfl, hwindow, rfl, hwrite, ?_⟩
  dsimp only
  rw [hcount]
  refine ⟨hbuf, htake, hdrop, hswaps, ?_, ?_, ?_, rfl⟩
  · rw [hcs, List.drop_left]
  · rw [hls, List.drop_left]
  · rw [hbs, List.drop_left]

end Sys2Proof.Machine

/-!
The host's answers: the clock duty of a ready wait (20_memory R61, R63), and that the history records every
answer taken (R59, R64).
-/

namespace Sys2Proof.Machine

/-! ### The clock duty -/

/-- A host with an answer queued, or with patience left, answers as to any `Now()`. -/
theorem State.pollAnswer_free {start timeout : Word} {p : Nat} {s : State}
    (h : s.clockIn ≠ [] ∨ 0 < p) : s.pollAnswer start timeout p = s.clockAt 0 0 := by
  cases p with
  | succ p => exact State.pollAnswer_succ start timeout p s
  | zero =>
    obtain ⟨t, rest, hc⟩ := List.exists_cons_of_ne_nil (h.resolve_right (Nat.lt_irrefl 0))
    rw [State.pollAnswer_cons hc, ← State.clockAnswer_eq_clockAt, State.clockAnswer_cons hc]

/-- A value at or past the deadline is the late clock value whose free part is the time it is late by. -/
theorem lateClock_of_late {start timeout t : Word} (h : timeout.toNat ≤ (t - start).toNat) :
    lateClock start timeout (t - start - timeout) = t := by
  have hle : timeout ≤ t - start := h
  have hlt := (t - start).isLt
  have hfree : (t - start - timeout).toNat % (2 ^ 32 - timeout.toNat) = (t - start - timeout).toNat := by
    rw [BitVec.toNat_sub_of_le hle]
    exact Nat.mod_eq_of_lt (by omega)
  rw [lateClock, u32, u32, hfree, BitVec.ofNat_toNat, BitVec.setWidth_eq]
  bv_omega

/-- Settles O56: the late clock values are exactly the values at or past the deadline. -/
theorem hostClockDuty : Obligations.HostClockDuty := by
  refine ⟨fun _ _ _ _ => State.pollAnswer_free, fun _ _ _ => State.pollAnswer_late, ?_⟩
  intro start timeout t
  constructor
  · exact fun h => ⟨_, lateClock_of_late h⟩
  · rintro ⟨v, rfl⟩
    rw [lateClock_elapsed]
    exact Nat.le_add_right _ _

/-! ### Answers taken off a queue -/

/-- The answers `taken` leave `rest` of the queue: they are the queued ones, as long as there are any. -/
structure TakenFrom {α : Type} (queue taken rest : List α) : Prop where
  rest_eq : rest = queue.drop taken.length
  queued : ∀ (k : Nat) (a q : α), taken[k]? = some a → queue[k]? = some q → a = q

theorem TakenFrom.nil {α : Type} (queue : List α) : TakenFrom queue [] queue :=
  ⟨rfl, fun _ _ _ ha => nomatch ha⟩

/-- One answer, the one queued first if there is one. -/
theorem TakenFrom.head {α : Type} {queue : List α} {a : α} (h : ∀ q, queue.head? = some q → a = q) :
    TakenFrom queue [a] queue.tail where
  rest_eq := List.drop_one.symm
  queued k b q hb hq := by
    obtain ⟨hk, rfl⟩ := List.getElem?_eq_some_iff.mp hb
    obtain rfl : k = 0 := Nat.lt_one_iff.mp hk
    exact h q (List.head?_eq_getElem? ▸ hq)

theorem TakenFrom.append {α : Type} {queue taken rest taken' rest' : List α}
    (h : TakenFrom queue taken rest) (h' : TakenFrom rest taken' rest') :
    TakenFrom queue (taken ++ taken') rest' where
  rest_eq := by rw [h'.rest_eq, h.rest_eq, List.drop_drop, List.length_append]
  queued k a q ha hq := by
    rcases Nat.lt_or_ge k taken.length with hk | hk
    · exact h.queued k a q (List.getElem?_append_left hk ▸ ha) hq
    · refine h'.queued (k - taken.length) a q (List.getElem?_append_right hk ▸ ha) ?_
      rw [h.rest_eq, List.getElem?_drop, Nat.add_sub_cancel' hk, hq]

/-! ### The answers a history records -/

theorem nowAnswers_append (es fs : List Event) :
    nowAnswers (es ++ fs) = nowAnswers es ++ nowAnswers fs :=
  List.filterMap_append

theorem levelAnswers_append (es fs : List Event) :
    levelAnswers (es ++ fs) = levelAnswers es ++ levelAnswers fs :=
  List.filterMap_append

/-- From `s` to `t` the host gave exactly the answers that the events `es` record (20_memory R59, R64). -/
structure State.Recorded (s : State) (es : List Event) (t : State) : Prop where
  history : t.history = s.history ++ es
  clock : TakenFrom s.clockIn (nowAnswers es) t.clockIn
  level : TakenFrom s.levelIn (levelAnswers es) t.levelIn
  byte : TakenFrom s.byteIn (byteAnswers es) t.byteIn
  drawn : t.drawn =
    s.drawn + (nowAnswers es).length + (levelAnswers es).length + (byteAnswers es).length

/-- The history grew by events that record exactly the answers given. -/
def State.Answered (s t : State) : Prop :=
  ∃ es, s.Recorded es t

theorem State.Answered.trans {s t u : State} (h : s.Answered t) (h' : t.Answered u) : s.Answered u := by
  obtain ⟨es, he⟩ := h
  obtain ⟨fs, hf⟩ := h'
  refine ⟨es ++ fs, ?_, ?_, ?_, ?_, ?_⟩
  · rw [hf.history, he.history, List.append_assoc]
  · exact nowAnswers_append es fs ▸ he.clock.append hf.clock
  · exact levelAnswers_append es fs ▸ he.level.append hf.level
  · exact byteAnswers_append es fs ▸ he.byte.append hf.byte
  · rw [hf.drawn, he.drawn, nowAnswers_append, levelAnswers_append, byteAnswers_append]
    simp only [List.length_append]
    omega

/-- Events that record no answer, and no answer given. -/
theorem State.answered_of_unasked {s t : State} (es : List Event) (hnow : nowAnswers es = [] := by rfl)
    (hlevel : levelAnswers es = [] := by rfl) (hbyte : byteAnswers es = [] := by rfl)
    (hhistory : t.history = s.history ++ es := by rfl) (hclockIn : t.clockIn = s.clockIn := by rfl)
    (hlevelIn : t.levelIn = s.levelIn := by rfl) (hbyteIn : t.byteIn = s.byteIn := by rfl)
    (hdrawn : t.drawn = s.drawn := by rfl) : s.Answered t := by
  refine ⟨es, hhistory, ?_, ?_, ?_, ?_⟩
  · exact hnow ▸ hclockIn ▸ .nil _
  · exact hlevel ▸ hlevelIn ▸ .nil _
  · exact hbyte ▸ hbyteIn ▸ .nil _
  · rw [hnow, hlevel, hbyte]
    exact hdrawn

/-- What touches neither the history nor the answers. -/
theorem State.answered_of_same {s t : State} (hhistory : t.history = s.history := by rfl)
    (hclockIn : t.clockIn = s.clockIn := by rfl) (hlevelIn : t.levelIn = s.levelIn := by rfl)
    (hbyteIn : t.byteIn = s.byteIn := by rfl) (hdrawn : t.drawn = s.drawn := by rfl) :
    s.Answered t :=
  State.answered_of_unasked [] (hhistory := hhistory.trans (List.append_nil _).symm)
    (hclockIn := hclockIn) (hlevelIn := hlevelIn) (hbyteIn := hbyteIn) (hdrawn := hdrawn)

/-! ### Host calls -/

/-- A `Now()` answered by the queue, or by any value if nothing is queued. -/
theorem State.answered_tellClock {s : State} {t : Word} (h : ∀ q, s.clockIn.head? = some q → t = q) :
    s.Answered (s.tellClock t) :=
  ⟨[.now t], rfl, .head h, .nil _, .nil _, rfl⟩

theorem State.answered_now (s : State) : s.Answered s.now.2 :=
  State.answered_tellClock fun q hq => by simp [State.clockAnswer, hq]

theorem State.answered_pollNow (start timeout : Word) (p : Nat) (s : State) :
    s.Answered (s.pollNow start timeout p).2 :=
  State.answered_tellClock fun q hq => by simp [State.pollAnswer, hq]

theorem State.answered_pinRead (s : State) : s.Answered s.pinRead.2 :=
  ⟨[.pinRead s.params.dataPin s.levelAnswer], rfl, .nil _,
    .head fun q hq => by simp [State.levelAnswer, hq], .nil _, rfl⟩

theorem State.answered_shiftInByte (s : State) : s.Answered s.shiftInByte.2 :=
  ⟨[.shiftInByte s.params.dataPin s.params.clockPin s.byteAnswer], rfl, .nil _, .nil _,
    .head fun q hq => by simp [State.byteAnswer, hq], rfl⟩

theorem State.answered_writeClock (level : Level) (s : State) : s.Answered (s.writeClock level) :=
  State.answered_of_unasked [.pinWrite s.params.clockPin level]

theorem State.answered_setPinMode (pin : PinId) (mode : PinMode) (s : State) :
    s.Answered (s.setPinMode pin mode) :=
  State.answered_of_unasked [.pinMode pin mode]

theorem State.answered_pulses (n : Nat) (s : State) : s.Answered (s.pulses n) := by
  induction n generalizing s with
  | zero => exact State.answered_of_same
  | succ n ih =>
    exact ((s.answered_writeClock .high).trans (State.answered_writeClock .low _)).trans (ih s.pulse)

theorem State.answered_takeReading (s : State) : s.Answered s.takeReading.2 :=
  ((s.answered_shiftInByte.trans (State.answered_shiftInByte _)).trans
    (State.answered_shiftInByte _)).trans (State.answered_pulses _ _)

theorem State.answered_poll (start timeout : Word) (p : Nat) (s : State) :
    s.Answered (s.poll start timeout p).2 := by
  have hnow := s.answered_pollNow start timeout p
  unfold State.poll
  split
  rename_i t s1 h1
  rw [h1] at hnow
  split
  · exact hnow
  have hread := hnow.trans s1.answered_pinRead
  split <;> rename_i s2 h2 <;> rw [h2] at hread
  · exact hread
  · exact hread.trans (State.answered_of_unasked [.yield])

/-! ### Commands -/

theorem State.answered_readFrom (start timeout : Word) (p : Nat) (s : State) :
    s.Answered (s.readFrom start timeout p) := by
  have hp := s.answered_poll start timeout p
  unfold State.readFrom
  split <;> rename_i s1 h <;> rw [h] at hp
  · exact hp.trans State.answered_of_same
  · exact (hp.trans s1.answered_takeReading).trans State.answered_of_same
  · exact hp.trans State.answered_of_same

theorem State.answered_addStep {s t : State} {v : Word} (h : s.addStep v = .ok t) : s.Answered t := by
  obtain ⟨-, rfl⟩ := State.addStep_ok.mp h
  exact State.answered_of_same

theorem State.answered_finishMedian {s t : State} (h : s.finishMedian = .ok t) : s.Answered t := by
  rw [State.finishMedian_frame h]
  exact State.answered_of_same

theorem State.answered_medianFrom {left : Nat} {start : Word} {p : Nat} {s t : State}
    (h : s.medianFrom left start p = .ok t) : s.Answered t := by
  have hp := s.answered_poll start Config.readMedianTimeout p
  obtain rfl | rfl | ⟨u, ha, hm⟩ := State.medianFrom_cases h
  · exact hp.trans State.answered_of_same
  · exact hp.trans State.answered_of_same
  refine ((hp.trans (State.answered_takeReading _)).trans (State.answered_addStep ha)).trans ?_
  cases left with
  | zero => exact State.answered_finishMedian hm
  | succ n => exact u.answered_now.trans (State.answered_medianFrom hm)
termination_by left

theorem answered_exec {i : Instr} {s t : State} (h : exec i s = .next t) : s.Answered t := by
  cases i with
  | begin =>
    cases h
    exact ((s.answered_setPinMode _ _).trans (State.answered_setPinMode _ _ _)).trans
      State.answered_of_same
  | setGain code =>
    cases h
    exact State.answered_of_same
  | isReady =>
    cases h
    exact s.answered_pinRead.trans State.answered_of_same
  | read timeout =>
    cases h
    exact s.answered_now.trans (State.answered_readFrom ..)
  | powerDown =>
    cases h
    exact ((s.answered_writeClock _).trans (State.answered_writeClock _ _)).trans
      State.answered_of_same
  | powerUp =>
    cases h
    exact (s.answered_writeClock _).trans State.answered_of_same
  | filterConfigure req =>
    rw [exec_filterConfigure_next h]
    exact State.answered_of_same
  | filterClear =>
    rw [exec_filterClear_next h]
    exact State.answered_of_same
  | filterAdd value =>
    rw [exec_filterAdd_next h]
    exact State.answered_of_same
  | filterGetMedian => exact State.answered_finishMedian (answer_eq_next.mp h)
  | readMedian times =>
    replace h : execReadMedian times s = .next t := h
    unfold execReadMedian at h
    split at h
    · cases h
      exact State.answered_of_same
    · obtain ⟨u, hu, hm⟩ := bind_eq_ok (answer_eq_next.mp h)
      obtain ⟨-, rfl⟩ := State.reconfigure_ok.mp hu
      exact State.answered_of_same (t := s.cleared _) |>.trans
        ((State.answered_now _).trans (State.answered_medianFrom hm))

theorem answered_resume {wait : Wait} {s t : State} (h : resume wait s = .next t) : s.Answered t := by
  have hs : s.Answered s.unwaited := State.answered_of_same
  obtain ⟨start, task, p⟩ := wait
  cases task with
  | read timeout =>
    cases h
    exact hs.trans (State.answered_readFrom ..)
  | median left => exact hs.trans (State.answered_medianFrom (answer_eq_next.mp h))

theorem State.answered_settle (w : CommandWord) (s : State) : s.Answered (s.settle w) := by
  cases hw : s.wait with
  | none =>
    rw [State.settle_of_wait_none w hw]
    exact State.answered_of_unasked [.command w s.status s.result]
  | some wait =>
    rw [State.settle_of_wait_some w hw]
    exact State.answered_of_same

theorem answered_step {s t : State} (h : step s = .next t) : s.Answered t := by
  obtain ⟨-, rfl⟩ | ⟨w, u, -, rfl, hu⟩ := step_eq_next h
  · exact State.answered_of_same
  refine State.Answered.trans ?_ (u.answered_settle w)
  obtain ⟨wait, -, hr⟩ | ⟨-, e, -, rfl⟩ | ⟨-, i, -, he⟩ := hu
  · exact answered_resume hr
  · exact State.answered_of_same
  · exact answered_exec he

/-- Settles O12: every part of a command records the answers it takes. -/
theorem historyRecordsAnswers : Obligations.HistoryRecordsAnswers := by
  intro s t h
  obtain ⟨es, hes⟩ := answered_step h
  exact ⟨es, hes.history, hes.clock.rest_eq, hes.level.rest_eq, hes.byte.rest_eq, hes.drawn,
    hes.clock.queued, hes.level.queued, hes.byte.queued⟩

end Sys2Proof.Machine

/-!
READ by how an iteration of its wait ends (40_reader R107 to R112), and what the step of a READ puts on the
wires (20_memory R53, R60; 40_reader R103, R110, R111).
-/

namespace Sys2Proof.Machine

/-! ### One iteration of READ -/

/-- Past the deadline READ ends (40_reader R109). -/
theorem State.readFrom_late {start timeout : Word} {p : Nat} {s : State}
    (h : timeout.toNat ≤ (s.pollAnswer start timeout p - start).toNat) :
    s.readFrom start timeout p = { s with
      clockIn := s.clockIn.drop 1
      drawn := s.drawn + 1
      history := s.history ++ [.now (s.pollAnswer start timeout p)]
      status := .timedOut
      result := 0 } := by
  rw [State.readFrom, State.poll_deadline h, State.pollNow_eq, List.drop_one]
  rfl

/-- A HIGH sample suspends READ (40_reader R108). -/
theorem State.readFrom_high {start timeout : Word} {p : Nat} {s : State}
    (h : (s.pollAnswer start timeout p - start).toNat < timeout.toNat) (hl : s.levelAt 0 1 = .high) :
    s.readFrom start timeout p =
      (s.yielded (s.pollAnswer start timeout p)).suspend start (.read timeout) p := by
  rw [State.readFrom, State.poll_sample h, hl]
  simp only [State.yielded, highEvents, List.drop_one, List.append_assoc]
  rfl

/-- A LOW sample takes the reading and ends READ (40_reader R110 to R112). -/
theorem State.readFrom_low {start timeout : Word} {p : Nat} {s : State}
    (h : (s.pollAnswer start timeout p - start).toNat < timeout.toNat) (hl : s.levelAt 0 1 = .low) :
    s.readFrom start timeout p = { s with
      clockIn := s.clockIn.drop 1
      levelIn := s.levelIn.drop 1
      byteIn := s.byteIn.drop 3
      drawn := s.drawn + 5
      history := s.history ++ lowEvents s.params.dataPin s.params.clockPin s.gainPulses.toNat
        (s.pollAnswer start timeout p) (s.byteAt 0 2) (s.byteAt 1 3) (s.byteAt 2 4)
      status := .ok
      result := assemble (s.byteAt 0 2) (s.byteAt 1 3) (s.byteAt 2 4) } := by
  rw [State.readFrom, State.poll_sample h, hl]
  simp [State.takeReading_eq, State.finish, State.byteAt, lowEvents, Nat.add_assoc]

/-- READ from its start or from a wait of its own makes an iteration, before which at most the start's clock
read was recorded. -/
theorem readFrom_of_runsTo {timeout : Word} {s u : State} (h : runsTo (.read timeout) s u) :
    ∃ start p, (u = s.now.2.readFrom start timeout p ∧ s.wait = none) ∨
      u = s.unwaited.readFrom start timeout p := by
  obtain ⟨hw, h⟩ | ⟨⟨start, task, p⟩, -, hi, h⟩ := h
  · cases h
    exact ⟨_, _, .inl ⟨rfl, hw⟩⟩
  · cases task with
    | read timeout' =>
      cases hi
      cases h
      exact ⟨start, p, .inr rfl⟩
    | median left =>
      obtain ⟨times, hi, -⟩ := hi
      cases hi

/-! ### The clock levels of a reading -/

/-- The levels of `n` clock pulses (40_reader R103). -/
def pulseLevels (n : Nat) : List Level :=
  (List.replicate n [Level.high, .low]).flatten

theorem pulseLevels_succ (n : Nat) : pulseLevels (n + 1) = .high :: .low :: pulseLevels n := rfl

theorem pulseLevels_add (m n : Nat) : pulseLevels (m + n) = pulseLevels m ++ pulseLevels n := by
  rw [pulseLevels, List.replicate_add, List.flatten_append]
  rfl

theorem countPulses_pulseLevels (n : Nat) : countPulses (pulseLevels n) = n := by
  induction n with
  | zero => rfl
  | succ n ih => exact congrArg (· + 1) ih

/-- After a pulse the clock is LOW. -/
theorem getLast?_pulseLevels {n : Nat} (h : 0 < n) : (pulseLevels n).getLast? = some .low := by
  obtain ⟨m, rfl⟩ := Nat.exists_eq_succ_of_ne_zero h.ne'
  rw [Nat.succ_eq_add_one, pulseLevels_add, List.getLast?_append]
  rfl

theorem clockLevels_pulseEvents (clock : PinId) (n : Nat) :
    clockLevels clock (pulseEvents clock n) = pulseLevels n := by
  induction n with
  | zero => rfl
  | succ n ih =>
    rw [pulseEvents_succ, clockLevels_append, ih, pulseLevels_succ]
    simp [clockLevels, wire, Event.wire, Event.written]

/-- A byte is eight pulses (20_memory R60). -/
theorem clockLevels_shiftInByte (data clock : PinId) (b : Byte) :
    clockLevels clock [.shiftInByte data clock b] = pulseLevels 8 := by
  simp [clockLevels, wire, Event.wire, shiftWire, Event.written, pulseLevels, List.replicate_succ,
    List.filterMap_cons]

/-- The reading is 24 pulses and the gain pulses (40_reader R110, R111). -/
theorem clockLevels_lowEvents (data clock : PinId) (gain : Nat) (t : Word) (b2 b1 b0 : Byte) :
    clockLevels clock (lowEvents data clock gain t b2 b1 b0) = pulseLevels (24 + gain) := by
  have hsplit : lowEvents data clock gain t b2 b1 b0 =
      [.now t, .pinRead data .low] ++ ([.shiftInByte data clock b2] ++ ([.shiftInByte data clock b1] ++
        ([.shiftInByte data clock b0] ++ pulseEvents clock gain))) := rfl
  have hnone : clockLevels clock [.now t, .pinRead data .low] = [] := rfl
  rw [hsplit]
  simp only [clockLevels_append, hnone, clockLevels_shiftInByte, clockLevels_pulseEvents,
    List.nil_append, ← pulseLevels_add]
  congr 1
  omega

/-! ### The bytes of a reading -/

theorem byteAnswers_pulseEvents (clock : PinId) (n : Nat) : byteAnswers (pulseEvents clock n) = [] := by
  induction n with
  | zero => rfl
  | succ n ih => rw [pulseEvents_succ, byteAnswers_append, ih]; rfl

/-- The bits sampled inside bytes are those of the bytes, bit 7 first (20_memory R53, R60). -/
theorem dataBits_eq (es : List Event) :
    dataBits es = (byteAnswers es).flatMap fun b => [7, 6, 5, 4, 3, 2, 1, 0].map fun k => b.getLsbD k := by
  induction es with
  | nil => rfl
  | cons e es ih => cases e <;> simpa [dataBits, byteAnswers] using ih

theorem byteAnswers_lowEvents (data clock : PinId) (gain : Nat) (t : Word) (b2 b1 b0 : Byte) :
    byteAnswers (lowEvents data clock gain t b2 b1 b0) = [b2, b1, b0] := by
  rw [lowEvents, byteAnswers_append, byteAnswers_pulseEvents]
  rfl

/-! ### READ on the wires -/

/-- The events `es` of READ up to the state `u`, on the wires: a whole reading with its gain pulses if READ
completed, and no clock level otherwise (40_reader R103, R110, R111). -/
structure State.ReadOnWire (s : State) (es : List Event) (u : State) : Prop where
  completed : u.wait = none → u.status = .ok →
    clockLevels s.params.clockPin es = pulseLevels (24 + s.gainPulses.toNat) ∧
      ∃ b2 b1 b0, byteAnswers es = [b2, b1, b0] ∧ u.result = assemble b2 b1 b0
  otherwise : u.wait ≠ none ∨ u.status ≠ .ok → clockLevels s.params.clockPin es = []

/-- Events around the reading that drive no clock level and shift no byte. -/
theorem State.ReadOnWire.surround {s u : State} {es : List Event} (h : s.ReadOnWire es u)
    (before after : List Event) (hlevels : clockLevels s.params.clockPin before = [] := by rfl)
    (hbytes : byteAnswers before = [] := by rfl)
    (hlevels' : clockLevels s.params.clockPin after = [] := by rfl)
    (hbytes' : byteAnswers after = [] := by rfl) : s.ReadOnWire (before ++ es ++ after) u := by
  have hl : clockLevels s.params.clockPin (before ++ es ++ after) = clockLevels s.params.clockPin es := by
    rw [clockLevels_append, clockLevels_append, hlevels, hlevels', List.nil_append, List.append_nil]
  have hb : byteAnswers (before ++ es ++ after) = byteAnswers es := by
    rw [byteAnswers_append, byteAnswers_append, hbytes, hbytes', List.nil_append, List.append_nil]
  refine ⟨?_, ?_⟩
  · rw [hl, hb]
    exact h.completed
  · rw [hl]
    exact h.otherwise

/-- An iteration of READ, by how it ends. -/
theorem State.readFrom_onWire {s : State} (hw : s.wait = none) (start timeout : Word) (p : Nat) :
    ∃ es, (s.readFrom start timeout p).history = s.history ++ es ∧
      s.ReadOnWire es (s.readFrom start timeout p) := by
  obtain ⟨hlate, -⟩ | ⟨hclock, hlevel, -⟩ | ⟨hclock, hlevel, -⟩ := s.poll_cases start timeout p
  · rw [State.readFrom_late hlate]
    exact ⟨_, rfl, nofun, fun _ => rfl⟩
  · rw [State.readFrom_low hclock hlevel]
    refine ⟨_, rfl, fun _ _ => ⟨clockLevels_lowEvents .., _, _, _, byteAnswers_lowEvents .., rfl⟩, ?_⟩
    rintro (h | h)
    · exact absurd hw h
    · exact absurd rfl h
  · rw [State.readFrom_high hclock hlevel]
    exact ⟨_, rfl, nofun, fun _ => rfl⟩

/-- READ up to its settling, from its start or from its wait. -/
theorem read_onWire {timeout : Word} {s u : State} (h : runsTo (.read timeout) s u) :
    ∃ es, u.history = s.history ++ es ∧ s.ReadOnWire es u := by
  obtain ⟨start, p, ⟨rfl, hw⟩ | rfl⟩ := readFrom_of_runsTo h
  · obtain ⟨es, hes, hwire⟩ := State.readFrom_onWire (s := s.now.2) hw start timeout p
    refine ⟨[.now s.clockAnswer] ++ es, ?_, ?_⟩
    · rw [hes, State.now_history, List.append_assoc]
    · have hs : s.ReadOnWire es _ := ⟨hwire.completed, hwire.otherwise⟩
      exact List.append_nil (_ ++ es) ▸ hs.surround [.now s.clockAnswer] []
  · obtain ⟨es, hes, hwire⟩ := State.readFrom_onWire (s := s.unwaited) rfl start timeout p
    exact ⟨es, hes, hwire.completed, hwire.otherwise⟩

/-- Settling adds at most the completion event, which no wire shows. -/
theorem State.ReadOnWire.settle {s u : State} {es : List Event} (h : s.ReadOnWire es u)
    (hes : u.history = s.history ++ es) (w : CommandWord) :
    ∃ fs, (u.settle w).history = s.history ++ fs ∧ s.ReadOnWire fs (u.settle w) := by
  cases hw : u.wait with
  | none =>
    rw [State.settle_of_wait_none w hw]
    have hc := h.surround [] [.command w u.status u.result]
    refine ⟨_, ?_, hc.completed, hc.otherwise⟩
    rw [State.complete_history, hes, List.append_assoc]
    rfl
  | some wait =>
    rw [State.settle_of_wait_some w hw]
    exact ⟨es, hes, h⟩

/-- Settles O26: a READ that completes shifts three bytes and drives its gain pulses; any other only reads the
clock, samples or yields. -/
theorem readWirePulses : Obligations.ReadWirePulses := by
  intro s t w timeout hm hf hd h
  obtain ⟨hn, -⟩ | ⟨w', u, hf', rfl, hu⟩ := step_runs hm h
  · cases hf.symm.trans hn
  cases hf.symm.trans hf'
  obtain ⟨-, e, he, -⟩ | ⟨i, hi, hr⟩ := hu
  · cases hd.symm.trans he
  cases hd.symm.trans hi
  obtain ⟨es, hes, hwire⟩ := read_onWire hr
  obtain ⟨fs, hfs, hwire'⟩ := hwire.settle hes w
  refine ⟨fs, hfs, fun hw hok => ?_, hwire'.otherwise⟩
  obtain ⟨hlevels, b2, b1, b0, hbytes, hresult⟩ := hwire'.completed hw hok
  refine ⟨?_, ?_, b2, b1, b0, hbytes, hresult, ?_⟩
  · rw [clockPulses, hlevels, countPulses_pulseLevels]
  · rw [hfs, lastClockLevel, clockLevels_append, hlevels, List.getLast?_append,
      getLast?_pulseLevels (by omega)]
    rfl
  · rw [dataBits_eq, hbytes]

end Sys2Proof.Machine

/-!
Every wait ends: by the host's clock duty (20_memory R61, R63) a ready wait reaches its deadline, if no LOW
sample ends it before, and so every command finishes (60_exceptions R218).
-/

namespace Sys2Proof.Machine

/-! ### When a wait falls due -/

/-- The iteration number `n` of the wait, from the next one on and from 0, is past the deadline if none before
ends the wait: by the clock answer queued for it, or by the host's duty, with no answer queued and no patience
left. -/
def State.DueWithin (start timeout : Word) (p n : Nat) (s : State) : Prop :=
  (∃ late, s.clockIn[n]? = some late ∧ timeout.toNat ≤ (late - start).toNat) ∨
    (s.clockIn.length ≤ n ∧ p ≤ n)

/-- The host's duty: every wait falls due. -/
theorem State.dueWithin_max (start timeout : Word) (p : Nat) (s : State) :
    s.DueWithin start timeout p (max p s.clockIn.length) :=
  .inr ⟨Nat.le_max_right _ _, Nat.le_max_left _ _⟩

/-- A wait that is due is past its deadline. -/
theorem State.DueWithin.late {start timeout : Word} {p : Nat} {s : State}
    (h : s.DueWithin start timeout p 0) :
    timeout.toNat ≤ (s.pollAnswer start timeout p - start).toNat := by
  obtain ⟨late, hq, hlate⟩ | ⟨hlen, hp⟩ := h
  · obtain ⟨rest, hc⟩ := List.head?_eq_some_iff.mp (List.head?_eq_getElem?.trans hq)
    rw [State.pollAnswer_cons hc]
    exact hlate
  · obtain rfl : p = 0 := Nat.le_zero.mp hp
    exact State.pollAnswer_late (List.eq_nil_of_length_eq_zero (Nat.le_zero.mp hlen))

/-- An iteration that yields brings the wait one nearer to its deadline. -/
theorem State.DueWithin.yielded {start timeout : Word} {p n : Nat} {s : State}
    (h : s.DueWithin start timeout p (n + 1)) (t : Word) :
    (s.yielded t).DueWithin start timeout (p - 1) n := by
  obtain ⟨late, hq, hlate⟩ | ⟨hlen, hp⟩ := h
  · exact .inl ⟨late, by rw [State.yielded, List.getElem?_drop, Nat.add_comm, hq], hlate⟩
  · refine .inr ⟨?_, by omega⟩
    rw [State.yielded, List.length_drop]
    omega

/-! ### Commands that end -/

/-- A command `w` at position `c` that did `x` finishes within `n` more steps. -/
def EndsWithin (w : CommandWord) (c n : Nat) (x : Except Fault State) : Prop :=
  ∃ k t, k ≤ n ∧ runOn w k x = .next t ∧ t.wait = none ∧ t.cp = c + 1

theorem endsWithin_of_finished {c n : Nat} {t : State} (w : CommandWord) (hw : t.wait = none)
    (hc : t.cp = c) : EndsWithin w c n (.ok t) :=
  ⟨0, t.complete w, Nat.zero_le n, runOn_finished hw, hw, congrArg (· + 1) hc⟩

theorem EndsWithin.run {w : CommandWord} {c n : Nat} {x : Except Fault State} {s : State}
    (h : EndsWithin w c n x) (hstep : step s = settleAnswer w (answer x)) :
    ∃ k t, k ≤ n + 1 ∧ Host.Core.run core k s = .next t ∧ t.wait = none ∧ t.cp = c + 1 := by
  obtain ⟨k, t, hk, hrun, hw, hc⟩ := h
  exact ⟨k + 1, t, Nat.succ_le_succ hk, (runSteps_succ hstep k).trans hrun, hw, hc⟩

/-! ### READ ends -/

theorem step_of_readWait {s : State} {w : CommandWord} {start timeout : Word} {p : Nat}
    (hp : s.params.wellFormed = true) (hf : s.fetch = some w)
    (hw : s.wait = some { start := start, task := .read timeout, patience := p }) :
    step s = settleAnswer w (answer (.ok (s.unwaited.readFrom start timeout p))) :=
  step_of_wait hp hw hf

/-- An iteration of READ ends the command, or it is in time and yields. -/
theorem State.readFrom_finished_or_yielded {s : State} (hw : s.wait = none) (start timeout : Word)
    (p : Nat) :
    ((s.readFrom start timeout p).wait = none ∧ (s.readFrom start timeout p).cp = s.cp) ∨
      (s.pollAnswer start timeout p - start).toNat < timeout.toNat ∧
        s.readFrom start timeout p =
          (s.yielded (s.pollAnswer start timeout p)).suspend start (.read timeout) p := by
  obtain ⟨hlate, -⟩ | ⟨hclock, hlevel, -⟩ | ⟨hclock, hlevel, -⟩ := s.poll_cases start timeout p
  · rw [State.readFrom_late hlate]
    exact .inl ⟨hw, rfl⟩
  · rw [State.readFrom_low hclock hlevel]
    exact .inl ⟨hw, rfl⟩
  · exact .inr ⟨hclock, State.readFrom_high hclock hlevel⟩

/-- READ ends at the latest when its wait is due. -/
theorem State.DueWithin.readFrom_ends {start timeout : Word} {p n : Nat} {s : State} {w : CommandWord}
    (h : s.DueWithin start timeout p n) (hp : s.params.wellFormed = true) (hf : s.fetch = some w)
    (hw : s.wait = none) : EndsWithin w s.cp n (.ok (s.readFrom start timeout p)) := by
  obtain ⟨hw', hc⟩ | ⟨hclock, hyield⟩ := State.readFrom_finished_or_yielded hw start timeout p
  · exact endsWithin_of_finished w hw' hc
  cases n with
  | zero => exact absurd h.late (Nat.not_le.mpr hclock)
  | succ n =>
    obtain ⟨k, t, hk, hrun, ht⟩ := (h.yielded (s.pollAnswer start timeout p)).readFrom_ends hp hf hw
    refine ⟨k + 1, t, Nat.succ_le_succ hk, ?_, ht⟩
    have hstep := step_of_readWait
      (s := (s.yielded (s.pollAnswer start timeout p)).suspend start (.read timeout) p) hp hf rfl
    rw [hyield, runOn_waiting rfl, runSteps_succ hstep, ← hrun]
    exact congrArg (fun u => runOn w k (.ok (State.readFrom start timeout (p - 1) u)))
      (State.unwaited_of_none (s := s.yielded _) hw)
termination_by n

theorem step_of_read {s : State} {w : CommandWord} {timeout : Word} (hp : s.params.wellFormed = true)
    (hw : s.wait = none) (hf : s.fetch = some w) (hd : decode w = .ok (.read timeout)) :
    step s =
      settleAnswer w (answer (.ok (s.now.2.readFrom s.clockAnswer timeout s.now.2.freshPatience))) :=
  step_of_command hp hw hf hd

/-- Settles O23: the answer queued for iteration `n` makes the wait due there. -/
theorem readEndsUnderFairClock : Obligations.ReadEndsUnderFairClock := by
  intro s w timeout start ts n late hp hw hf hd hc hn hlate
  have hstep := step_of_read hp hw hf hd
  rw [State.clockAnswer_cons hc] at hstep
  have hq : s.now.2.clockIn[n]? = some late := by rw [State.now_clockIn, hc, List.tail_cons, hn]
  have hdue : s.now.2.DueWithin start timeout s.now.2.freshPatience n := .inl ⟨late, hq, hlate⟩
  exact (hdue.readFrom_ends hp hf hw).run hstep

/-! ### The readings of READ_MEDIAN end -/

theorem State.Running.afterWait {w : CommandWord} {s : State} (h : s.Running w) (r : Reading) :
    (s.afterWait r).Running w :=
  ⟨h.params_wf, h.fetch, h.wait, (h.filter.added r.value).congr⟩

/-- What the wait of a reading comes to: READ_MEDIAN has finished, or the reading is taken and `left` readings
are still to take. -/
def State.WaitDone (w : CommandWord) (left : Nat) (s : State) (x : Except Fault State) : Prop :=
  (∃ t, x = .ok t ∧ t.wait = none ∧ t.cp = s.cp) ∨
    ∃ u : State, x = u.takeReadings left ∧ u.Running w ∧ u.cp = s.cp

/-- An iteration of a reading's wait is done with it, or it is in time and yields. -/
theorem State.Running.waitDone_or_high {w : CommandWord} {s : State} (h : s.Running w) (left : Nat)
    (start : Word) (p : Nat) :
    s.WaitDone w left (s.medianFrom left start p) ∨
      (s.pollAnswer start 1000 p - start).toNat < 1000 ∧ s.levelAt 0 1 = .high := by
  obtain ⟨hlate, -⟩ | ⟨hclock, hlevel, -⟩ | ⟨hclock, hlevel, -⟩ := s.poll_cases start 1000 p
  · exact .inl (.inl ⟨_, State.medianFrom_late hlate, h.wait, rfl⟩)
  · exact .inl (.inr ⟨_, h.filter.medianFrom_low hclock hlevel, h.afterWait _, rfl⟩)
  · exact .inr ⟨hclock, hlevel⟩

/-- The wait of a reading ends at the latest when it is due. -/
theorem State.Running.wait_ends {w : CommandWord} {start : Word} {left p n : Nat} {s : State}
    (h : s.Running w) (hdue : s.DueWithin start 1000 p n) :
    ∃ k x, k ≤ n ∧ (∀ m, runOn w (k + m) (s.medianFrom left start p) = runOn w m x) ∧
      s.WaitDone w left x := by
  obtain hdone | ⟨hclock, hlevel⟩ := h.waitDone_or_high left start p
  · exact ⟨0, _, Nat.zero_le n, fun m => congrArg (runOn w · _) (Nat.zero_add m), hdone⟩
  cases n with
  | zero => exact absurd hdue.late (Nat.not_le.mpr hclock)
  | succ n =>
    obtain ⟨k, x, hk, hrun, hx⟩ :=
      (h.yielded _).wait_ends (left := left) (hdue.yielded (s.pollAnswer start 1000 p))
    refine ⟨k + 1, x, Nat.succ_le_succ hk, fun m => ?_, hx⟩
    rw [← hrun m, ← h.runOn_high hclock hlevel, Nat.add_right_comm]
termination_by n

/-- The median step of a command that can go on ends it. -/
theorem State.Running.finishMedian {w : CommandWord} {s : State} (h : s.Running w) :
    ∃ t, s.finishMedian = .ok t ∧ t.wait = none ∧ t.cp = s.cp := by
  rcases Nat.eq_zero_or_pos s.count with hc | hc
  · exact ⟨_, State.finishMedian_empty hc, h.wait, rfl⟩
  · exact ⟨_, h.filter.finishMedian_eq hc, h.wait, rfl⟩

/-- READ_MEDIAN with `left` readings to take ends in its step, or waits for one of them. -/
theorem State.Running.takeReadings {w : CommandWord} {left : Nat} {s : State} (h : s.Running w) :
    ∃ t, s.takeReadings left = .ok t ∧ t.cp = s.cp ∧
      (t.wait = none ∨ ∃ start' left' p',
        t.wait = some { start := start', task := .median left', patience := p' } ∧ left' < left) := by
  induction left generalizing s with
  | zero =>
    obtain ⟨t, ht, hw, hc⟩ := h.finishMedian
    exact ⟨t, ht, hc, .inl hw⟩
  | succ left ih =>
    have hn := h.now
    obtain ⟨hlate, -⟩ | ⟨hclock, hlevel, -⟩ | ⟨hclock, hlevel, -⟩ :=
      s.now.2.poll_cases s.now.1 1000 s.now.2.freshPatience
    · exact ⟨_, State.medianFrom_late hlate, rfl, .inl hn.wait⟩
    · obtain ⟨t, ht, hc, hw⟩ :=
        ih (hn.afterWait (s.now.2.lowReading s.now.1 s.now.2.freshPatience))
      refine ⟨t, (hn.filter.medianFrom_low hclock hlevel).trans ht, hc, hw.imp_right ?_⟩
      rintro ⟨start', left', p', hw, hlt⟩
      exact ⟨start', left', p', hw, Nat.lt_succ_of_lt hlt⟩
    · exact ⟨_, State.medianFrom_high hclock hlevel, rfl, .inr ⟨_, _, _, rfl, Nat.lt_succ_self left⟩⟩

theorem State.Inv.unwaited_running {s : State} {w : CommandWord} (hs : s.Inv) (hf : s.fetch = some w) :
    s.unwaited.Running w :=
  ⟨hs.params_wf, hf, rfl, hs.filter.unwaited⟩

/-- Settles O55: the wait ends when it is due, and if that is by a reading, only later ones can wait. -/
theorem medianReadingEndsUnderFairClock : Obligations.MedianReadingEndsUnderFairClock := by
  intro s w start left p n late hs hf hw hn hlate
  have hdue : s.unwaited.DueWithin start 1000 p n := .inl ⟨late, hn, hlate⟩
  obtain ⟨k, x, hk, hrun, hx⟩ := (hs.unwaited_running hf).wait_ends (left := left) hdue
  have hx : ∃ t, x = .ok t ∧ t.cp = s.cp ∧ (t.wait = none ∨ ∃ start' left' p',
      t.wait = some { start := start', task := .median left', patience := p' } ∧ left' < left) := by
    obtain ⟨t, rfl, ht, hc⟩ | ⟨u, rfl, hu, hc⟩ := hx
    · exact ⟨t, rfl, hc, .inl ht⟩
    · obtain ⟨t, ht, hc', hwait⟩ := hu.takeReadings (left := left)
      exact ⟨t, ht, hc'.trans hc, hwait⟩
  obtain ⟨t, rfl, hc, hwait⟩ := hx
  have hsteps := (runSteps_succ (step_of_medianWait hs.params_wf hf hw) k).trans (hrun 0)
  obtain ht | ⟨start', left', p', ht, hlt⟩ := hwait
  · refine ⟨k + 1, t.complete w, Nat.succ_le_succ hk, hsteps.trans (runOn_finished ht), .inl ⟨ht, ?_⟩⟩
    exact congrArg (· + 1) hc
  · refine ⟨k + 1, t, Nat.succ_le_succ hk, hsteps.trans (runOn_waiting ht 0), .inr ?_⟩
    exact ⟨start', left', p', ht, hlt⟩

/-! ### Every command ends -/

/-- READ_MEDIAN ends from any iteration of a wait if it ends once the reading is taken. -/
theorem State.Running.medianFrom_ends {w : CommandWord} {left : Nat} {s : State} (h : s.Running w)
    (hleft : ∀ u : State, u.Running w → ∃ n, EndsWithin w u.cp n (u.takeReadings left)) (start : Word)
    (p : Nat) : ∃ n, EndsWithin w s.cp n (s.medianFrom left start p) := by
  obtain ⟨k, x, -, hrun, hx⟩ := h.wait_ends (left := left) (s.dueWithin_max start 1000 p)
  have hx : ∃ n, EndsWithin w s.cp n x := by
    obtain ⟨t, rfl, hw, hc⟩ | ⟨u, rfl, hu, hc⟩ := hx
    · exact ⟨0, endsWithin_of_finished w hw hc⟩
    · exact hc ▸ hleft u hu
  obtain ⟨n, m, t, hm, hend, ht⟩ := hx
  exact ⟨k + n, k + m, t, Nat.add_le_add_left hm k, (hrun m).trans hend, ht⟩

/-- READ_MEDIAN ends, whatever the number of readings it has still to take. -/
theorem State.Running.takeReadings_ends {w : CommandWord} {left : Nat} {s : State} (h : s.Running w) :
    ∃ n, EndsWithin w s.cp n (s.takeReadings left) := by
  induction left generalizing s with
  | zero =>
    obtain ⟨t, ht, hw, hc⟩ := h.finishMedian
    rw [State.takeReadings, ht]
    exact ⟨0, endsWithin_of_finished w hw hc⟩
  | succ left ih => exact h.now.medianFrom_ends (fun u hu => ih hu) s.now.1 s.now.2.freshPatience

/-- From a well formed filter every command but READ_MEDIAN answers. -/
theorem State.Inv.exec_answers {s : State} (hs : s.Inv) {i : Instr} (hm : ∀ times, i ≠ .readMedian times) :
    ∃ u, exec i s = .next u := by
  have hord := hs.filter.ord_length
  cases i with
  | begin | setGain | isReady | read | powerDown | powerUp => exact ⟨_, rfl⟩
  | filterConfigure req =>
    have hcap : clamp s.params req ≤ s.ord.length := hord ▸ (clamp_range hs.params_wf req).2
    refine ⟨(s.cleared (clamp s.params req)).finish .ok (BitVec.ofNat 32 (clamp s.params req)), ?_⟩
    show execFilterConfigure req s = _
    rw [execFilterConfigure, State.reconfigure_eq hcap]
    rfl
  | filterClear =>
    refine ⟨(s.cleared s.capacity).finish .ok 0, ?_⟩
    show execFilterClear s = _
    rw [execFilterClear, State.clearStep_ok.mpr ⟨hord ▸ hs.filter.capacity_le, rfl⟩]
    rfl
  | filterAdd value =>
    refine ⟨(s.added value).finish .ok 0, ?_⟩
    show execFilterAdd value s = _
    rw [execFilterAdd,
      State.addStep_ok.mpr ⟨⟨hs.filter.writeIndex_lt, hs.filter.writeIndex_lt_buf⟩, rfl⟩]
    rfl
  | filterGetMedian =>
    rcases Nat.eq_zero_or_pos s.count with hc | hc
    · exact ⟨_, congrArg answer (State.finishMedian_empty hc)⟩
    · exact ⟨_, congrArg answer (hs.filter.finishMedian_eq hc)⟩
  | readMedian times => exact absurd rfl (hm times)

/-- A command with no readings ends in the step in which it starts. -/
theorem State.Inv.exec_ends_at_once {s : State} (hs : s.Inv) (hw : s.wait = none) (w : CommandWord)
    {i : Instr} (hr : ∀ timeout, i ≠ .read timeout) (hm : ∀ times, i ≠ .readMedian times) :
    ∃ n x, exec i s = answer x ∧ EndsWithin w s.cp n x := by
  obtain ⟨u, hu⟩ := hs.exec_answers hm
  have hport := (portKept_kept s).exec (fun _ _ => trivial) (.refl s) hu
  refine ⟨0, .ok u, hu, endsWithin_of_finished w ?_ hport.cp⟩
  refine Option.eq_none_iff_forall_not_mem.mpr fun ⟨start, task, p⟩ hwait => ?_
  have htask := waitsAs_of_runsTo (.inl ⟨hw, hu⟩) hwait
  cases task with
  | read timeout => exact hr timeout htask
  | median left =>
    obtain ⟨times, hi, -⟩ := htask
    exact hm times hi

/-- A command that starts ends. -/
theorem State.Inv.exec_ends {s : State} {w : CommandWord} {i : Instr} (hs : s.Inv) (hw : s.wait = none)
    (hf : s.fetch = some w) : ∃ n x, exec i s = answer x ∧ EndsWithin w s.cp n x := by
  cases i with
  | read timeout =>
    have hdue := s.now.2.dueWithin_max s.clockAnswer timeout s.now.2.freshPatience
    exact ⟨_, .ok _, rfl, hdue.readFrom_ends hs.params_wf hf hw⟩
  | readMedian times =>
    rcases lt_or_ge 0 times.toInt with hpos | hle
    · have hn : times.toInt = times.toInt.toNat := (Int.toNat_of_nonneg hpos.le).symm
      obtain ⟨n, hn'⟩ := (hs.cleared_running hw hf times).takeReadings_ends (left := times.toInt.toNat)
      exact ⟨n, _, exec_readMedian_eq hs hn (by omega), hn'⟩
    · exact ⟨0, .ok (s.raise .emptyFilter), if_pos hle, endsWithin_of_finished w hw rfl⟩
  | begin | setGain | isReady | powerDown | powerUp | filterConfigure | filterClear | filterAdd
  | filterGetMedian => exact hs.exec_ends_at_once hw w nofun nofun

/-- A command that waits ends. -/
theorem State.Inv.resume_ends {s : State} {w : CommandWord} (hs : s.Inv) (hf : s.fetch = some w)
    (wait : Wait) : ∃ n x, resume wait s = answer x ∧ EndsWithin w s.cp n x := by
  obtain ⟨start, task, p⟩ := wait
  cases task with
  | read timeout =>
    have hdue := s.unwaited.dueWithin_max start timeout p
    exact ⟨_, .ok _, rfl, hdue.readFrom_ends hs.params_wf hf rfl⟩
  | median left =>
    obtain ⟨n, hn⟩ := (hs.unwaited_running hf).medianFrom_ends (left := left)
      (fun u hu => hu.takeReadings_ends) start p
    exact ⟨n, _, rfl, hn⟩

/-- The step of a presented word starts a command that ends. -/
theorem State.Inv.step_ends {s : State} {w : CommandWord} (hs : s.Inv) (hf : s.fetch = some w) :
    ∃ n x, step s = settleAnswer w (answer x) ∧ EndsWithin w s.cp n x := by
  obtain ⟨hp, -⟩ | ⟨-, hn, -⟩ | ⟨-, w', wait, hf', hw, hstep⟩ | ⟨-, w', e, hf', hw, -, hstep⟩ |
    ⟨-, w', i, hf', hw, -, hstep⟩ := step_cases s
  · cases hs.params_wf.symm.trans hp
  · cases hf.symm.trans hn
  all_goals cases hf.symm.trans hf'
  · obtain ⟨n, x, hx, hend⟩ := hs.resume_ends hf wait
    exact ⟨n, x, hx ▸ hstep, hend⟩
  · exact ⟨0, .ok (s.raise .illegalCommand), hstep, endsWithin_of_finished w hw rfl⟩
  · obtain ⟨n, x, hx, hend⟩ := hs.exec_ends (i := i) hw hf
    exact ⟨n, x, hx ▸ hstep, hend⟩

/-- Settles O57: every wait of a command falls due by the host's duty, a READ's within its patience and its
queue. -/
theorem everyCommandEnds : Obligations.EveryCommandEnds := by
  refine ⟨fun s w hs hf => ?_, fun s w start timeout p hp hf hw => ?_⟩
  · obtain ⟨n, x, hstep, hend⟩ := hs.step_ends hf
    obtain ⟨k, t, -, hrun⟩ := hend.run hstep
    exact ⟨k, t, hrun⟩
  · have hdue : s.unwaited.DueWithin start timeout p (max p s.clockIn.length) :=
      s.unwaited.dueWithin_max start timeout p
    exact (hdue.readFrom_ends hp hf rfl).run (step_of_readWait hp hf hw)

end Sys2Proof.Machine

/-!
Decoding against encoding, as 30_encoding R80 to R85 has it: each proof reads the opcode map at the two fields
of a word (`decode_append`).
-/

namespace Sys2Proof

/-! ### The opcode map -/

/-- The fields of a command's word name the command (R82). -/
theorem decodeFields_encoded (i : Instr) : decodeFields i.opcode i.operand = .ok i := by
  cases i <;> rfl

/-- A command without operand is read from its OP, at any ARG (R85). -/
theorem decodeFields_of_noOperand {i : Instr} (h : i.operandKind = .none) (arg : Word) :
    decodeFields i.opcode arg = .ok i := by
  cases i with
  | begin | isReady | powerDown | powerUp | filterClear | filterGetMedian => rfl
  | setGain | read | filterConfigure | filterAdd | readMedian => cases h

/-- Fields that name a command are its OP and, unless the command ignores it, its operand. -/
theorem fields_of_decodeFields {op : BitVec 8} {arg : Word} {i : Instr} (h : decodeFields op arg = .ok i) :
    i.opcode = op ∧ i.operand = if i.operandKind = .none then 0 else arg := by
  unfold decodeFields at h
  split at h <;> cases h <;> exact ⟨rfl, rfl⟩

/-- The fields name no command exactly if OP is in one of the four ranges of R84. -/
theorem decodeFields_error_iff (op : BitVec 8) (arg : Word) :
    (∃ e, decodeFields op arg = .error e) ↔
      (op.toNat = 0 ∨ (7 ≤ op.toNat ∧ op.toNat ≤ 0x0F) ∨ (0x14 ≤ op.toNat ∧ op.toNat ≤ 0x1F) ∨
        0x21 ≤ op.toNat) := by
  unfold decodeFields
  split
  case h_12 =>
    refine iff_of_true ⟨_, rfl⟩ ?_
    simp only [imp_false, ← BitVec.toNat_inj, BitVec.toNat_ofNat] at *
    omega
  all_goals exact iff_of_false nofun (by decide)

end Sys2Proof

namespace Sys2Proof.Machine

/-! ### Decoder and encoder -/

/-- Settles O1: a word is decoded by its two fields, and those of a command's word name the command. -/
theorem decodeOfEncode : Obligations.DecodeOfEncode :=
  fun i => (decode_append i.opcode i.operand).trans (decodeFields_encoded i)

/-- Settles O2: a command's OP and operand are the fields of any word that decodes to it, but for an ignored
ARG. -/
theorem encodeOfDecode : Obligations.EncodeOfDecode := by
  intro w i h
  obtain ⟨hop, harg⟩ := fields_of_decodeFields h
  rw [encode, hop, harg]

/-- Settles O4: the map at each OP of R82. -/
theorem opcodeMap : Obligations.OpcodeMap := by
  intro arg
  simp only [decode_append]
  exact ⟨rfl, rfl, rfl, rfl, rfl, rfl, rfl, rfl, rfl, rfl, rfl⟩

/-- Settles O6: the six OPs are those of the commands without operand. -/
theorem ignoredOperandBits : Obligations.IgnoredOperandBits := by
  have ignored : ∀ i : Instr, i.operandKind = .none →
      ∃ j : Instr, j.operandKind = .none ∧ ∀ arg : Word, decode (i.opcode ++ arg) = .ok j :=
    fun i hi => ⟨i, hi, fun arg => (decode_append _ arg).trans (decodeFields_of_noOperand hi arg)⟩
  simp only [Obligations.IgnoredOperandBits, List.forall_mem_cons]
  exact ⟨ignored .begin rfl, ignored .isReady rfl, ignored .powerDown rfl, ignored .powerUp rfl,
    ignored .filterClear rfl, ignored .filterGetMedian rfl, nofun⟩

/-! ### Illegal words -/

theorem step_of_illegal {s : State} {w : CommandWord} {e : DecodeError} (hp : s.params.wellFormed = true)
    (hw : s.wait = none) (hf : s.fetch = some w) (hd : decode w = .error e) :
    step s = settleAnswer w (illegalCommand s) := by
  simp [step, hp, hf, hw, hd]

/-- Settles O5: the illegal ranges are read off the opcode map, and the step of an illegal word is one `raise`,
completed. -/
theorem illegalWordsFinish : Obligations.IllegalWordsFinish := by
  refine ⟨fun op arg => ?_, by decide +kernel, fun s w e hp hw hf hd => ?_⟩
  · rw [decode_append]
    exact decodeFields_error_iff op arg
  · rw [step_of_illegal hp hw hf hd]
    exact congrArg Host.Outcome.next (State.settle_of_wait_none (s := s.raise .illegalCommand) w hw)

/-! ### SET_GAIN's operand -/

/-- The gain map compares the whole word (R83). -/
theorem gainPulses_eq (code : Word) :
    gainPulses code = if code = 128 then 1 else if code = 64 then 3 else if code = 32 then 2 else 1 := by
  simp only [gainPulses, u32, ← BitVec.toNat_inj]
  rfl

/-- Settles O14: the one field beside STATUS and RESULT is the value of the gain map. -/
theorem setGainWritesPulses : Obligations.SetGainWritesPulses := by
  intro code s
  rw [← gainPulses_eq]
  rfl

/-! ### Every step answers -/

theorem EndsWithin.answers {w : CommandWord} {c n : Nat} {x : Except Fault State} (h : EndsWithin w c n x) :
    ∃ t, settleAnswer w (answer x) = .next t := by
  obtain ⟨k, t, -, hrun, -⟩ := h
  cases x with
  | ok u => exact ⟨_, rfl⟩
  | error f => cases hrun

/-- Settles O48: with no word presented the step changes nothing, and a presented word starts or goes on with a
command that ends, so no part of it faults. -/
theorem everyStepAnswers : Obligations.EveryStepAnswers := by
  intro s hs
  cases hf : s.fetch with
  | none => exact ⟨s, noCommandNoChange s hs.params_wf (List.getElem?_eq_none_iff.mp hf)⟩
  | some w =>
    obtain ⟨n, x, hstep, hend⟩ := hs.step_ends hf
    exact hstep ▸ hend.answers

end Sys2Proof.Machine

/-!
The assembler of 30_encoding R87 and R88, token by token: names with one mnemonic assemble alike, and so do
operands with one word.
-/

namespace Sys2Proof.Machine

/-! ### Lines -/

/-- A line whose words are a command's assembles to the word of the command, which decodes to it. -/
theorem assembleLine_decode {line : List Char} {i : Instr} {w : CommandWord}
    (h : assembleTokens (lineTokens line) = .ok (some i)) (hw : encode i = w) :
    assembleLine line = .ok (some w) ∧ decode w = .ok i := by
  subst hw
  exact ⟨by rw [assembleLine, h], decodeOfEncode i⟩

/-- Settles O3: each line's words are those of the command, and the command's word is the one of R89. -/
theorem specWordsDecode : Obligations.SpecWordsDecode := by
  refine ⟨?_, ?_, ?_, ?_, ?_, ?_, ?_, ?_, ?_, ?_, ?_, ?_, ?_, ?_, ?_⟩ <;>
    exact assembleLine_decode (by decide) (by decide)

/-! ### Aliases and defaults -/

/-- A line depends on its name by the mnemonic alone. -/
theorem assembleTokens_congr_name {name name' : List Char} (h : mnemonicOf name = mnemonicOf name')
    (rest : List (List Char)) : assembleTokens (name :: rest) = assembleTokens (name' :: rest) := by
  rcases rest with _ | ⟨operand, _ | ⟨_, _⟩⟩ <;> simp only [assembleTokens, h]

/-- A line depends on its operand by the operand's word alone. -/
theorem assembleTokens_congr_operand {name text text' : List Char} {m : Mnemonic}
    (hm : mnemonicOf name = some m) (h : operandOf m text = operandOf m text') :
    assembleTokens [name, text] = assembleTokens [name, text'] := by
  simp only [assembleTokens, hm, h]

/-- A command that has a default may be written without the operand. -/
theorem assembleTokens_default {name text : List Char} {m : Mnemonic} {arg : Word}
    (hm : mnemonicOf name = some m) (hkind : m.kind ≠ .none) (hdefault : m.default = some arg)
    (htext : operandOf m text = .ok arg) : assembleTokens [name] = assembleTokens [name, text] := by
  simp only [assembleTokens, hm, hkind, hdefault, htext, if_false]

/-- Settles O53: the defaults and the gain names by their words, the aliases by their mnemonics. -/
theorem aliasesExpand : Obligations.AliasesExpand := by
  have gain : mnemonicOf "SET_GAIN".toList = some .setGain := by decide
  refine ⟨?_, ?_, ?_, ?_, ?_, fun rest => ?_⟩
  · exact assembleTokens_default (m := .read) (arg := 1000) (by decide) (by decide) rfl (by decide)
  · exact assembleTokens_default (m := .readMedian) (arg := 10) (by decide) (by decide) rfl (by decide)
  · exact assembleTokens_congr_operand gain (by decide)
  · exact assembleTokens_congr_operand gain (by decide)
  · exact assembleTokens_congr_operand gain (by decide)
  · refine ⟨?_, ?_, ?_, ?_, ?_, ?_, ?_, ?_, ?_, ?_⟩ <;>
      exact assembleTokens_congr_name (by decide) rest

/-! ### Operands -/

theorem operandWord_decimal_unsigned (v : Int) :
    operandWord .unsigned (.decimal v) =
      if 0 ≤ v ∧ v ≤ 4294967295 then .ok (BitVec.ofInt 32 v) else .error .operandDoesNotFit := by
  simp only [operandWord, Written.wellFormed, Bool.and_eq_true, decide_eq_true_eq]

theorem operandWord_decimal_signed (v : Int) :
    operandWord .signed (.decimal v) =
      if -2147483648 ≤ v ∧ v ≤ 2147483647 then .ok (BitVec.ofInt 32 v)
      else .error .operandDoesNotFit := by
  simp only [operandWord, Written.wellFormed, Bool.and_eq_true, decide_eq_true_eq]

/-- A hexadecimal pattern is checked by its number of digits, whichever way the operand is read. -/
theorem operandWord_hex {kind : OperandKind} (hkind : kind ≠ .none) {digits v : Nat}
    (hv : v < 16 ^ digits) :
    operandWord kind (.hex digits v) =
      if 1 ≤ digits ∧ digits ≤ 8 then .ok (BitVec.ofNat 32 v) else .error .operandDoesNotFit := by
  cases kind with
  | none => exact absurd rfl hkind
  | unsigned | signed =>
    simp only [operandWord, Written.wellFormed, Bool.and_eq_true, decide_eq_true_eq, hv, and_true]

theorem operandWord_none (written : Written) :
    operandWord .none written = .error .operandDoesNotFit := by
  cases written <;> rfl

theorem assembleTokens_unexpectedOperand {m : Mnemonic} {name : List Char}
    (hm : mnemonicOf name = some m) (hkind : m.kind = .none) (text : List Char) :
    assembleTokens [name, text] = .error .unexpectedOperand := by
  simp only [assembleTokens, hm, hkind, if_true]

/-- A text that is no gain name of the command is read as a number. -/
theorem operandOf_of_noGainName {m : Mnemonic} {text : List Char} (h : m = .setGain → gainName text = none) :
    operandOf m text = (writtenOperand text).elim (.error .notANumber) (operandWord m.kind) := by
  have hgain : (if m = .setGain then gainName text else none) = none := ite_eq_right_iff.mpr h
  unfold operandOf
  rw [hgain]
  cases writtenOperand text <;> rfl

/-- Settles O54: the check of a written operand, by its form and the kind of the command. -/
theorem operandsFitOrRefused : Obligations.OperandsFitOrRefused := by
  refine ⟨operandWord_decimal_unsigned, operandWord_decimal_signed, fun _ _ _ hk hv => operandWord_hex hk hv,
    operandWord_none, fun m name text hm hkind => assembleTokens_unexpectedOperand hm hkind text,
    fun m hkind => ?_, fun m text htext hgain => ?_⟩
  · have hx : writtenOperand "0x".toList = some (.hex 0 0) := by decide
    rw [operandOf_of_noGainName fun _ => by decide, hx]
    exact operandWord_hex hkind (by decide)
  · rw [operandOf_of_noGainName hgain, htext]
    rfl

end Sys2Proof.Machine

/-!
The reader commands as what they change (40_reader R104 to R116), and a whole READ across its waits.
-/

namespace Sys2Proof.Machine

/-! ### Commands without a wait -/

/-- The mode set last is that of the last events that set one. -/
theorem lastPinMode_append {pin : PinId} {es : List Event} {m : PinMode}
    (h : lastPinMode pin es = some m) (history : List Event) :
    lastPinMode pin (history ++ es) = some m := by
  induction history with
  | nil => exact h
  | cons e history ih => simp only [List.cons_append, lastPinMode, ih]

/-- The last level written is that of the last events that write one. -/
theorem lastClockLevel_append {clock : PinId} {es : List Event} {level : Level}
    (h : lastClockLevel clock es = some level) (history : List Event) :
    lastClockLevel clock (history ++ es) = some level := by
  have hes : (clockLevels clock es).getLast? = some level := h
  rw [lastClockLevel, clockLevels_append, List.getLast?_append, hes, Option.some_or]

theorem lastClockLevel_pinWrite (clock : PinId) (level : Level) :
    lastClockLevel clock [.pinWrite clock level] = some level := by
  simp [lastClockLevel, clockLevels, wire, Event.wire, Event.written]

theorem exec_begin_eq (s : State) :
    exec .begin s = .next { s with
      history := s.history ++ [.pinMode s.params.clockPin .output, .pinMode s.params.dataPin .input]
      status := .ok
      result := 0 } := by
  rw [← List.singleton_append, ← List.append_assoc]
  rfl

/-- Settles O13: the pins differ, so the data pin's mode leaves the clock pin's. -/
theorem beginSetsPinModes : Obligations.BeginSetsPinModes := by
  refine fun s => ⟨exec_begin_eq s, fun hpins t h => ?_⟩
  cases (exec_begin_eq s).symm.trans h
  exact ⟨lastPinMode_append (by simp [lastPinMode, hpins]) _,
    lastPinMode_append (by simp [lastPinMode]) _⟩

/-- Settles O15: the sample is the host's next answer. -/
theorem isReadySamplesOnce : Obligations.IsReadySamplesOnce := by
  intro s
  show execIsReady s = _
  rw [execIsReady, State.pinRead_eq, State.levelAnswer_eq_levelAt, ← List.drop_one]
  cases s.levelAt 0 0 <;> rfl

theorem exec_powerDown_eq (s : State) :
    exec .powerDown s = .next { s with
      history := s.history ++
        [.pinWrite s.params.clockPin .low, .pinWrite s.params.clockPin .high]
      status := .ok
      result := 0 } := by
  rw [← List.singleton_append, ← List.append_assoc]
  rfl

/-- Settles O16: the HIGH is the last level written. -/
theorem powerDownLeavesClockHigh : Obligations.PowerDownLeavesClockHigh := by
  refine fun s => ⟨exec_powerDown_eq s, fun t h => ?_⟩
  cases (exec_powerDown_eq s).symm.trans h
  exact lastClockLevel_append
    (lastClockLevel_append (lastClockLevel_pinWrite s.params.clockPin .high) [.pinWrite _ .low]) _

/-- Settles O17: the LOW is the last level written. -/
theorem powerUpLeavesClockLow : Obligations.PowerUpLeavesClockLow := by
  refine fun s => ⟨rfl, fun t h => ?_⟩
  cases h
  exact lastClockLevel_append (lastClockLevel_pinWrite s.params.clockPin .low) s.history

/-! ### READ up to its first sample -/

/-- The first iteration of READ, after the start's clock read. -/
theorem exec_read_eq (timeout : Word) (s : State) :
    exec (.read timeout) s =
      .next (s.now.2.readFrom (s.clockAt 0 0) timeout s.now.2.freshPatience) := by
  rw [← State.clockAnswer_eq_clockAt]
  rfl

/-- The clock answer of the first iteration is the host's second one. -/
theorem State.pollAnswer_first (start timeout : Word) (s : State) :
    s.now.2.pollAnswer start timeout s.now.2.freshPatience = s.clockAt 1 1 := by
  rw [State.pollAnswer_fresh, State.clockAt_now]

/-- Settles O18: the first iteration finds LOW. -/
theorem readCompletesAtOnce : Obligations.ReadCompletesAtOnce := by
  intro timeout s hclock hlevel
  rw [← State.pollAnswer_first (s.clockAt 0 0) timeout] at hclock
  rw [← State.levelAt_now] at hlevel
  rw [exec_read_eq, State.readFrom_low hclock hlevel, State.pollAnswer_first, State.byteAt_now,
    State.byteAt_now, State.byteAt_now]
  simp [State.now_eq, State.clockAnswer_eq_clockAt, lowEvents, pulseEvents, assemble, filler]

/-- Settles O19: the first iteration is past the deadline. -/
theorem readTimesOutAtOnce : Obligations.ReadTimesOutAtOnce := by
  intro timeout s hlate
  rw [← State.pollAnswer_first (s.clockAt 0 0) timeout] at hlate
  rw [exec_read_eq, State.readFrom_late hlate, State.pollAnswer_first]
  simp [State.now_eq, State.clockAnswer_eq_clockAt]

/-- Settles O20: the first iteration finds HIGH. -/
theorem readYieldsOnHigh : Obligations.ReadYieldsOnHigh := by
  intro timeout s hclock hlevel
  rw [← State.pollAnswer_first (s.clockAt 0 0) timeout] at hclock
  rw [← State.levelAt_now] at hlevel
  rw [exec_read_eq, State.readFrom_high hclock hlevel, State.pollAnswer_first]
  simp [State.suspend, State.yielded, highEvents, State.now_eq, State.clockAnswer_eq_clockAt,
    State.freshPatience, State.patienceAt]

/-! ### One step of a waiting READ -/

/-- Settles O21: the three ways an iteration ends are those of `State.readFrom` on the state without its
wait. -/
theorem readWaitIteration : Obligations.ReadWaitIteration := by
  intro s w start timeout p hp hf hw
  have hstep := step_of_readWait hp hf hw
  refine ⟨fun hlate => ?_, fun hclock hlevel => ?_, fun hclock hlevel => ?_⟩
  · rw [hstep, State.readFrom_late (s := s.unwaited) hlate, answer, settleAnswer_finished rfl,
      State.complete, State.record, List.append_assoc]
    rfl
  · rw [hstep, State.readFrom_high (s := s.unwaited) hclock hlevel]
    rfl
  · rw [hstep, State.readFrom_low (s := s.unwaited) hclock hlevel, answer, settleAnswer_finished rfl]
    rfl

/-! ### The run of READ -/

/-- The state after the iterations that read the clock at `highs` and found HIGH, one each (40_reader R108). -/
def State.afterHighs (highs : List Word) (s : State) : State :=
  { s with
    clockIn := s.clockIn.drop highs.length
    levelIn := s.levelIn.drop highs.length
    drawn := s.drawn + 2 * highs.length
    history := s.history ++ highs.flatMap (highEvents s.params.dataPin) }

theorem State.afterHighs_nil (s : State) : s.afterHighs [] = s := by
  simp [State.afterHighs]

theorem State.afterHighs_cons (t : Word) (highs : List Word) (s : State) :
    s.afterHighs (t :: highs) = (s.yielded t).afterHighs highs := by
  simp [State.afterHighs, State.yielded, Nat.mul_add, Nat.add_assoc, Nat.add_comm 2]

/-- A wait of READ that finds HIGH once more is suspended, and the next step goes on with it. -/
theorem runOn_readHigh {w : CommandWord} {s : State} {start timeout : Word} {p n : Nat}
    (hp : s.params.wellFormed = true) (hf : s.fetch = some w) (hw : s.wait = none)
    (hclock : (s.pollAnswer start timeout p - start).toNat < timeout.toNat)
    (hlevel : s.levelAt 0 1 = .high) :
    runOn w (n + 1) (.ok (s.readFrom start timeout p)) =
      runOn w n (.ok ((s.yielded (s.pollAnswer start timeout p)).readFrom start timeout (p - 1))) := by
  rw [State.readFrom_high hclock hlevel, runOn_waiting rfl,
    runSteps_succ (step_of_readWait
      (s := (s.yielded (s.pollAnswer start timeout p)).suspend start (.read timeout) p) hp hf rfl)]
  exact congrArg (fun u => runOn w n (.ok (State.readFrom start timeout (p - 1) u)))
    (State.unwaited_of_none (s := s.yielded _) hw)

/-- The HIGH samples of a wait in time, a step for each (40_reader R108). -/
theorem runOn_readHighs {w : CommandWord} {start timeout : Word} {highs cs : List Word} {ls : List Level}
    {p : Nat} {s : State} (hp : s.params.wellFormed = true) (hf : s.fetch = some w) (hw : s.wait = none)
    (htimes : ∀ t ∈ highs, (t - start).toNat < timeout.toNat) (hcs : s.clockIn = highs ++ cs)
    (hls : s.levelIn = List.replicate highs.length .high ++ ls) :
    runOn w highs.length (.ok (s.readFrom start timeout p)) =
      runOn w 0 (.ok ((s.afterHighs highs).readFrom start timeout (p - highs.length))) := by
  induction highs generalizing s p with
  | nil => rw [State.afterHighs_nil]; rfl
  | cons t highs ih =>
    have hanswer : s.pollAnswer start timeout p = t := State.pollAnswer_cons hcs
    have hlevel : s.levelAt 0 1 = .high := by simp [State.levelAt, hls, List.replicate_succ]
    have hclock : (s.pollAnswer start timeout p - start).toNat < timeout.toNat := by
      rw [hanswer]
      exact htimes t List.mem_cons_self
    have hrec := ih (s := s.yielded t) (p := p - 1) hp hf hw
      (fun t' ht' => htimes t' (List.mem_cons_of_mem t ht')) (by simp [State.yielded, hcs])
      (by simp [State.yielded, hls, List.replicate_succ])
    rw [List.length_cons, runOn_readHigh hp hf hw hclock hlevel, hanswer, hrec, State.afterHighs_cons,
      Nat.sub_sub, Nat.add_comm 1]

/-- READ from its start to the iteration after its HIGH samples, if that ends it. -/
theorem run_read {s : State} {w : CommandWord} {timeout start : Word} {highs cs : List Word}
    {ls : List Level} (hp : s.params.wellFormed = true) (hw : s.wait = none) (hf : s.fetch = some w)
    (hd : decode w = .ok (.read timeout)) (htimes : ∀ t ∈ highs, (t - start).toNat < timeout.toNat)
    (hcs : s.clockIn = start :: (highs ++ cs))
    (hls : s.levelIn = List.replicate highs.length .high ++ ls) :
    ∃ p, ∀ u, (s.now.2.afterHighs highs).readFrom start timeout p = u → u.wait = none →
      runSteps (highs.length + 1) s = .next (u.complete w) := by
  have hstep := step_of_read hp hw hf hd
  rw [State.clockAnswer_cons hcs] at hstep
  have hrest : s.now.2.clockIn = highs ++ cs := by rw [State.now_clockIn, hcs, List.tail_cons]
  have hhighs := runOn_readHighs (s := s.now.2) (p := s.now.2.freshPatience) hp hf hw htimes hrest hls
  refine ⟨s.now.2.freshPatience - highs.length, fun u hu huw => ?_⟩
  rw [runSteps_succ hstep, hhighs, hu, runOn_finished huw]

/-- Settles O22: after the HIGH samples the last iteration finds LOW or is past the deadline, and READ
completes. -/
theorem readRun : Obligations.ReadRun := by
  intro s w timeout cs ls hp hw hf hd
  refine ⟨?_, ?_⟩
  · rintro ⟨start, highs, last, b2, b1, b0⟩ bs ⟨htimes, hlast⟩ hcs hls hbs
    have hc : s.clockIn = start :: (highs ++ last :: cs) := by simpa [Reading.clocks] using hcs
    have hl : s.levelIn = List.replicate highs.length .high ++ .low :: ls := by
      simpa [Reading.levels] using hls
    obtain ⟨p, hrun⟩ := run_read hp hw hf hd htimes hc hl
    have hanswer : (s.now.2.afterHighs highs).pollAnswer start timeout p = last :=
      State.pollAnswer_cons (rest := cs) (by simp [State.afterHighs, hc])
    have hlow := State.readFrom_low (s := s.now.2.afterHighs highs) (start := start) (timeout := timeout)
      (p := p) (by rw [hanswer]; exact hlast) (by simp [State.afterHighs, State.levelAt, hl])
    refine (hrun _ hlow hw).trans (congrArg Host.Outcome.next ?_)
    have hdrawn : s.drawn + 1 + 2 * highs.length + 5 = s.drawn + (2 * highs.length + 6) := by omega
    rw [hanswer]
    simp [State.afterHighs, State.complete, State.record, State.byteAt, hc, hl, hbs, Reading.bytes,
      Reading.value, Reading.events, Reading.answers, State.clockAnswer, hdrawn]
  · intro start last highs htimes hlate hcs hls
    have hc : s.clockIn = start :: (highs ++ last :: cs) := by simpa using hcs
    obtain ⟨p, hrun⟩ := run_read hp hw hf hd htimes hc hls
    have hanswer : (s.now.2.afterHighs highs).pollAnswer start timeout p = last :=
      State.pollAnswer_cons (rest := cs) (by simp [State.afterHighs, hc])
    have hend := State.readFrom_late (s := s.now.2.afterHighs highs) (start := start) (timeout := timeout)
      (p := p) (by rw [hanswer]; exact hlate)
    refine (hrun _ hend hw).trans (congrArg Host.Outcome.next ?_)
    have hdrawn : s.drawn + 1 + 2 * highs.length + 1 = s.drawn + 2 * highs.length + 2 := by omega
    rw [hanswer]
    simp [State.afterHighs, State.complete, State.record, hc, hls, State.clockAnswer, hdrawn]

end Sys2Proof.Machine

/-!
The reading of three bytes as a number and as a word (40_reader R112, R113), and the state a reader command
neither reads nor writes (R100).
-/

namespace Sys2Proof.Machine

/-! ### Assembly -/

/-- The upper byte is the sign of `b2`. -/
theorem filler_toInt (b2 : Byte) : (filler b2).toInt = if b2.toNat < 128 then 0 else -1 := by
  have hmsb : b2.getLsbD 7 = decide (128 ≤ b2.toNat) := BitVec.msb_eq_decide b2
  rw [filler, hmsb]
  by_cases h : b2.toNat < 128
  · rw [if_pos h, decide_eq_false (Nat.not_le.mpr h)]
    rfl
  · rw [if_neg h, decide_eq_true (Nat.not_lt.mp h)]
    rfl

/-- A byte appended moves a signed value up by eight bits. -/
theorem toInt_append_byte {n : Nat} (x : BitVec (n + 1)) (b : Byte) :
    (x ++ b).toInt = 256 * x.toInt + b.toNat :=
  BitVec.toInt_append

/-- Every byte has its weight, the upper one with its sign. -/
theorem assemble_toInt (b2 b1 b0 : Byte) :
    (assemble b2 b1 b0).toInt =
      16777216 * (filler b2).toInt + (b2.toNat * 65536 + b1.toNat * 256 + b0.toNat : Nat) := by
  have h0 : (assemble b2 b1 b0).toInt = 256 * (filler b2 ++ b2 ++ b1).toInt + b0.toNat :=
    toInt_append_byte (filler b2 ++ b2 ++ b1) b0
  have h1 := toInt_append_byte (filler b2 ++ b2) b1
  have h2 := toInt_append_byte (filler b2) b2
  omega

/-- Settles O24: the upper byte is 0 or -1 by the sign of `b2`. -/
theorem assembleSignExtends : Obligations.AssembleSignExtends := by
  intro b2 b1 b0
  have hint : (assemble b2 b1 b0).toInt = (if b2.toNat < 128 then 0 else -16777216) +
      (b2.toNat * 65536 + b1.toNat * 256 + b0.toNat : Nat) := by
    rw [assemble_toInt, filler_toInt]
    split <;> rfl
  have h2 := b2.isLt
  have h1 := b1.isLt
  have h0 := b0.isLt
  refine ⟨rfl, hint, ?_, ?_⟩ <;> rw [hint] <;> split <;> omega

theorem assemble_upper (b2 b1 b0 : Byte) : (assemble b2 b1 b0).extractLsb' 24 8 = filler b2 := by
  rw [assemble, BitVec.extractLsb'_append_eq_of_le (by decide), BitVec.extractLsb'_append_eq_of_le (by decide)]
  exact BitVec.extractLsb'_append_eq_left

theorem assemble_bit23 (b2 b1 b0 : Byte) : (assemble b2 b1 b0).getLsbD 23 = b2.getLsbD 7 := by
  have h0 : (assemble b2 b1 b0).getLsbD 23 = (filler b2 ++ b2 ++ b1).getLsbD 15 :=
    BitVec.getLsbD_append (x := filler b2 ++ b2 ++ b1) (y := b0) (i := 23)
  have h1 : (filler b2 ++ b2 ++ b1).getLsbD 15 = (filler b2 ++ b2).getLsbD 7 :=
    BitVec.getLsbD_append (x := filler b2 ++ b2) (y := b1) (i := 15)
  have h2 : (filler b2 ++ b2).getLsbD 7 = b2.getLsbD 7 := BitVec.getLsbD_append
  rw [h0, h1, h2]

/-- Settles O25: a READ that completes gives an assembled reading. -/
theorem readResultIsRawReading : Obligations.ReadResultIsRawReading := by
  intro s t w timeout hm hf hd h hw hok
  obtain ⟨es, -, hcompleted, -⟩ := readWirePulses s t w timeout hm hf hd h
  obtain ⟨-, -, b2, b1, b0, -, hresult, -⟩ := hcompleted hw hok
  rw [hresult, assemble_upper, assemble_bit23]
  rfl

/-! ### The filter state -/

/-- READ from an iteration of its wait on does the same with any filter (40_reader R100). -/
theorem State.readFrom_withFilter (f s : State) (start timeout : Word) (p : Nat) :
    (State.withFilter f s).readFrom start timeout p =
      State.withFilter f (s.readFrom start timeout p) := by
  obtain ⟨hlate, -⟩ | ⟨hclock, hlevel, -⟩ | ⟨hclock, hlevel, -⟩ := s.poll_cases start timeout p
  · rw [State.readFrom_late hlate, State.readFrom_late (s := State.withFilter f s) hlate]
    rfl
  · rw [State.readFrom_low hclock hlevel, State.readFrom_low (s := State.withFilter f s) hclock hlevel]
    rfl
  · rw [State.readFrom_high hclock hlevel, State.readFrom_high (s := State.withFilter f s) hclock hlevel]
    rfl

/-- A reader command does the same with any filter (40_reader R100). -/
theorem exec_withFilter {i : Instr} (hi : readerCommand i = true) (f : State) {s t : State}
    (h : exec i s = .next t) : exec i (State.withFilter f s) = .next (State.withFilter f t) := by
  cases i with
  | begin | setGain | isReady | powerDown | powerUp =>
    cases h
    rfl
  | read timeout =>
    cases h
    exact congrArg Host.Outcome.next (State.readFrom_withFilter f s.now.2 _ timeout _)
  | filterConfigure | filterClear | filterAdd | filterGetMedian | readMedian => cases hi

/-- Only SET_GAIN writes GAIN_PULSES (40_reader R100). -/
theorem exec_gainPulses {i : Instr} (hi : readerCommand i = true) (hg : ∀ code, i ≠ .setGain code)
    {s t : State} (h : exec i s = .next t) : t.gainPulses = s.gainPulses := by
  cases i with
  | begin | isReady | powerDown | powerUp =>
    cases h
    rfl
  | read timeout =>
    cases h
    exact (State.readFrom_sameFrame s.now.2 ..).gainPulses
  | setGain code => exact absurd rfl (hg code)
  | filterConfigure | filterClear | filterAdd | filterGetMedian | readMedian => cases hi

/-- Settles O28: by the command, and by how the iteration of the wait ends. -/
theorem readerLeavesFilterAlone : Obligations.ReaderLeavesFilterAlone := by
  refine ⟨fun i f s t hi h => ⟨exec_withFilter hi f h, fun hg => exec_gainPulses hi hg h⟩, ?_⟩
  intro start timeout p f s t h
  cases h
  exact ⟨congrArg Host.Outcome.next (State.readFrom_withFilter f s.unwaited start timeout p),
    (State.readFrom_sameFrame s.unwaited start timeout p).gainPulses⟩

end Sys2Proof.Machine

/-!
The chip behind the commands (40_reader R102, 70_reset_and_hazards R234 to R242): the gain pulses of the last
reading select, a power cycle resets, and nothing else does either.
-/

namespace Sys2Proof.Machine

/-! ### The chip after the host calls -/

/-- The chip as the state's own history shows it. -/
def State.chip (s : State) : ChipView :=
  chipView s.params.clockPin s.history

/-- The chip after more events: those of its clock pin. -/
theorem State.chip_of_history {s t : State} {es : List Event} (hhistory : t.history = s.history ++ es)
    (hparams : t.params = s.params := by rfl) :
    t.chip = es.foldl (ChipView.next s.params.clockPin) s.chip := by
  rw [State.chip, hparams, hhistory, chipView_append, State.chip]

theorem ChipView.begun_of_ready {v : ChipView} (h : v.ready = true) : v.begun = true :=
  (Bool.and_eq_true_iff.mp h).1

theorem State.chip_now {s : State} (h : s.chip.begun = true) : s.now.2.chip = s.chip := by
  rw [State.chip_of_history s.now_history, List.foldl_cons, List.foldl_nil, ChipView.next_now _ h]

/-- An iteration of a wait does nothing to the chip. -/
theorem State.chip_poll {s : State} (h : s.chip.begun = true) (start timeout : Word) (p : Nat) :
    (s.poll start timeout p).2.chip = s.chip := by
  have hb : (chipView s.params.clockPin s.history).begun = true := h
  rcases Nat.lt_or_ge (s.pollAnswer start timeout p - start).toNat timeout.toNat with hclock | hlate
  · rw [State.poll_sample hclock, State.chip, chipView_append, chipView_append]
    cases s.levelAt 0 1 <;>
      simp [ChipView.next_now, ChipView.next_pinRead, ChipView.next_yield, hb, State.chip]
  · rw [State.poll_deadline hlate, State.pollNow_eq, State.chip, chipView_append]
    exact ChipView.next_now (clock := s.params.clockPin) (s.pollAnswer start timeout p) hb

theorem State.chip_shiftInByte {s : State} (h : s.chip.ready = true) :
    s.shiftInByte.2.chip = { s.chip with clockHigh := false, pulses := some 0 } := by
  rw [State.chip_of_history s.shiftInByte_history, List.foldl_cons, List.foldl_nil,
    ChipView.next_shiftInByte h]

/-- Three bytes, after which the pulses are counted. -/
theorem State.chip_shiftInBytes {s : State} (h : s.chip.ready = true) :
    s.shiftInByte.2.shiftInByte.2.shiftInByte.2.chip =
      { s.chip with clockHigh := false, pulses := some 0 } := by
  have h1 := State.chip_shiftInByte h
  have h2 := State.chip_shiftInByte (s := s.shiftInByte.2) (h1 ▸ h)
  rw [h1] at h2
  have h3 := State.chip_shiftInByte (s := s.shiftInByte.2.shiftInByte.2) (h2 ▸ h)
  rw [h2] at h3
  exact h3

/-- Pulses after the bytes leave the chip ready and select (40_reader R102). -/
theorem State.chip_pulses {n : Nat} (hn : n ≠ 0) {s : State} (h : s.chip.ready = true)
    (hp : s.chip.pulses = some 0) (hc : s.chip.clockHigh = false) :
    (s.pulses n).chip.ready = true ∧ (s.pulses n).chip.setting = settingOf n := by
  have hchip := State.chip_of_history (s := s) (t := s.pulses n) (by rw [State.pulses_eq])
    (by rw [State.pulses_eq])
  rw [hchip, ChipView.pulses_select n h hp hc, if_neg hn, Nat.zero_add]
  exact ⟨h, rfl⟩

/-- A reading leaves the chip ready, and its gain pulses select (40_reader R102, R111). -/
theorem State.chip_takeReading {s : State} (h : s.chip.ready = true) (hg : s.gainPulses ≠ 0) :
    s.takeReading.2.chip.ready = true ∧
      s.takeReading.2.chip.setting = settingOf s.gainPulses.toNat := by
  have hbytes := State.chip_shiftInBytes h
  have hn : s.gainPulses.toNat ≠ 0 := fun hn => hg (BitVec.eq_of_toNat_eq hn)
  exact State.chip_pulses (s := s.shiftInByte.2.shiftInByte.2.shiftInByte.2) hn (hbytes ▸ h)
    (by rw [hbytes]) (by rw [hbytes])

theorem State.chip_addStep {s t : State} {v : Word} (h : s.addStep v = .ok t) : t.chip = s.chip := by
  obtain ⟨-, rfl⟩ := State.addStep_ok.mp h
  rfl

theorem State.chip_finishMedian {s t : State} (h : s.finishMedian = .ok t) : t.chip = s.chip := by
  rw [State.finishMedian_frame h]
  rfl

/-! ### The chip after READ and READ_MEDIAN -/

/-- READ from an iteration of its wait on, by what it does after it (40_reader R107). -/
theorem State.readFrom_parts (s : State) (start timeout : Word) (p : Nat) :
    s.readFrom start timeout p = (s.poll start timeout p).2.raise .timedOut ∨
      s.readFrom start timeout p = (s.poll start timeout p).2.suspend start (.read timeout) p ∨
      s.readFrom start timeout p = (s.poll start timeout p).2.takeReading.2.finish .ok
        (s.poll start timeout p).2.takeReading.1 := by
  unfold State.readFrom
  rcases s.poll start timeout p with ⟨_ | _ | _, s1⟩
  · exact .inl rfl
  · exact .inr (.inr rfl)
  · exact .inr (.inl rfl)

/-- A READ that completes selects by its pulses (40_reader R102). -/
theorem State.readFrom_selects {s : State} (h : s.chip.ready = true) (hg : s.gainPulses ≠ 0)
    (start timeout : Word) (p : Nat) (hw : (s.readFrom start timeout p).wait = none)
    (hok : (s.readFrom start timeout p).status = .ok) :
    (s.readFrom start timeout p).chip.setting = settingOf s.gainPulses.toNat := by
  have hpoll := State.chip_poll (ChipView.begun_of_ready h) start timeout p
  have hgain := (s.poll_sameFrame start timeout p).gainPulses
  obtain hr | hr | hr := s.readFrom_parts start timeout p
  · rw [hr] at hok
    cases hok
  · rw [hr] at hw
    cases hw
  · rw [hr, ← hgain]
    exact (State.chip_takeReading (hpoll ▸ h) (hgain ▸ hg)).2

theorem State.Called.wait {s t : State} (h : s.Called t) : t.wait = s.wait := by
  obtain ⟨cs, ls, bs, d, es, -, rfl⟩ := h
  rfl

/-- A READ that yields or times out does nothing to the chip. -/
theorem State.readFrom_chip {s : State} (h : s.chip.begun = true) (hw : s.wait = none)
    (start timeout : Word) (p : Nat)
    (hend : (s.readFrom start timeout p).wait ≠ none ∨
      (s.readFrom start timeout p).status = .timedOut) :
    (s.readFrom start timeout p).chip = s.chip := by
  have hpoll := State.chip_poll h start timeout p
  obtain hr | hr | hr := s.readFrom_parts start timeout p
  · exact hr ▸ hpoll
  · exact hr ▸ hpoll
  · rw [hr] at hend
    obtain hwait | hstatus := hend
    · exact absurd (((s.called_poll start timeout p).trans (State.called_takeReading _)).wait.trans hw) hwait
    · cases hstatus

/-- A READ_MEDIAN that completes selects by the pulses of its last reading (40_reader R102). -/
theorem State.medianFrom_selects {left : Nat} {start : Word} {p : Nat} {s t : State}
    (h : s.chip.ready = true) (hg : s.gainPulses ≠ 0) (ht : s.medianFrom left start p = .ok t)
    (hw : t.wait = none) (hok : t.status = .ok) : t.chip.setting = settingOf s.gainPulses.toNat := by
  have hpoll := State.chip_poll (ChipView.begun_of_ready h) start Config.readMedianTimeout p
  have hgain := (s.poll_sameFrame start Config.readMedianTimeout p).gainPulses
  obtain rfl | rfl | ⟨u, hadd, hrest⟩ := State.medianFrom_cases ht
  · cases hok
  · cases hw
  have hreading := State.chip_takeReading (hpoll ▸ h) (hgain ▸ hg)
  rw [← State.chip_addStep hadd, hgain] at hreading
  obtain ⟨hready, hsetting⟩ := hreading
  cases left with
  | zero => rw [State.chip_finishMedian hrest, hsetting]
  | succ n =>
    have hnow := State.chip_now (ChipView.begun_of_ready hready)
    have hgu : u.gainPulses = s.gainPulses :=
      (State.addStep_sameFrame hadd).gainPulses.trans
        ((State.takeReading_sameFrame _).gainPulses.trans hgain)
    rw [← hgu]
    exact State.medianFrom_selects (s := u.now.2) (hnow ▸ hready) (hgu ▸ hg) hrest hw hok
termination_by left

/-- READ, from its start or from its wait, selects if it completes. -/
theorem read_selects {timeout : Word} {s u : State} (h : runsTo (.read timeout) s u)
    (hready : s.chip.ready = true) (hg : s.gainPulses ≠ 0) (hw : u.wait = none) (hok : u.status = .ok) :
    u.chip.setting = settingOf s.gainPulses.toNat := by
  have hnow := State.chip_now (ChipView.begun_of_ready hready)
  obtain ⟨start, p, ⟨rfl, -⟩ | rfl⟩ := readFrom_of_runsTo h
  · exact State.readFrom_selects (s := s.now.2) (hnow ▸ hready) hg start timeout p hw hok
  · exact State.readFrom_selects (s := s.unwaited) hready hg start timeout p hw hok

theorem State.chip_reconfigure {s t : State} {req : Word} (h : s.reconfigure req = .ok t) :
    t.chip = s.chip := by
  obtain ⟨-, rfl⟩ := State.reconfigure_ok.mp h
  rfl

theorem State.reconfigure_gainPulses {s t : State} {req : Word} (h : s.reconfigure req = .ok t) :
    t.gainPulses = s.gainPulses := by
  obtain ⟨-, rfl⟩ := State.reconfigure_ok.mp h
  rfl

/-- READ_MEDIAN, from its start or from a wait, selects if it completes. -/
theorem readMedian_selects {times : Word} {s u : State} (h : runsTo (.readMedian times) s u)
    (hready : s.chip.ready = true) (hg : s.gainPulses ≠ 0) (hw : u.wait = none) (hok : u.status = .ok) :
    u.chip.setting = settingOf s.gainPulses.toNat := by
  obtain ⟨-, h⟩ | ⟨⟨start, task, p⟩, -, hi, h⟩ := h
  · replace h : execReadMedian times s = .next u := h
    unfold execReadMedian at h
    split at h
    · cases h
      cases hok
    obtain ⟨v, hv, hm⟩ := bind_eq_ok (answer_eq_next.mp h)
    have hchip := State.chip_reconfigure hv
    have hgain := State.reconfigure_gainPulses hv
    have hnow := State.chip_now (ChipView.begun_of_ready (hchip ▸ hready))
    rw [← hgain]
    exact State.medianFrom_selects (s := v.now.2) (hnow ▸ hchip ▸ hready) (hgain ▸ hg) hm hw hok
  · cases task with
    | read timeout => cases hi
    | median left =>
      exact State.medianFrom_selects (s := s.unwaited) hready hg (answer_eq_next.mp h) hw hok

/-! ### The gain pipeline -/

theorem State.settle_wait (w : CommandWord) (s : State) : (s.settle w).wait = s.wait := by
  unfold State.settle
  split <;> rfl

theorem State.settle_status (w : CommandWord) (s : State) : (s.settle w).status = s.status := by
  unfold State.settle
  split <;> rfl

/-- A completion selects nothing. -/
theorem State.settle_setting (w : CommandWord) (s : State) :
    (s.settle w).chip.setting = s.chip.setting := by
  unfold State.settle
  split
  · rw [State.chip_of_history (State.complete_history ..)]
    rfl
  · rfl

/-- A step of the command presented, and the setting after it. -/
theorem step_command_setting {s t : State} {w : CommandWord} {i : Instr} (hm : s.WaitMatches)
    (hf : s.fetch = some w) (hd : decode w = .ok i) (h : step s = .next t) :
    ∃ u, runsTo i s u ∧ t.wait = u.wait ∧ t.status = u.status ∧
      nextSetting s.params.clockPin t.history = u.chip.setting := by
  have hparams := (whoWritesWhat s t w hm hf h).1
  obtain ⟨hn, -⟩ | ⟨w', u, hf', rfl, hu⟩ := step_runs hm h
  · cases hf.symm.trans hn
  obtain ⟨-, e, he, -⟩ | ⟨i', hd', hr⟩ := hu
  · cases hf.symm.trans hf'
    cases hd.symm.trans he
  cases hf.symm.trans hf'
  cases hd.symm.trans hd'
  refine ⟨u, hr, State.settle_wait w u, State.settle_status w u, ?_⟩
  rw [← State.settle_setting w, State.chip, hparams, nextSetting]

/-- READ, from its start or from its wait, does nothing to the chip if it yields or times out. -/
theorem read_chip {timeout : Word} {s u : State} (h : runsTo (.read timeout) s u)
    (hb : s.chip.begun = true) (hend : u.wait ≠ none ∨ u.status = .timedOut) : u.chip = s.chip := by
  have hnow := State.chip_now hb
  obtain ⟨start, p, ⟨rfl, hw⟩ | rfl⟩ := readFrom_of_runsTo h
  · exact (State.readFrom_chip (s := s.now.2) (hnow ▸ hb) hw start timeout p hend).trans hnow
  · exact State.readFrom_chip (s := s.unwaited) hb rfl start timeout p hend

/-- A command that does not drive the clock selects nothing, IS_READY once BEGIN has been issued. -/
theorem runsTo_setting {i : Instr} (hi : drivesClock i = false) {s u : State} (h : runsTo i s u)
    (hb : s.chip.begun = true ∨ i ≠ .isReady) : u.chip.setting = s.chip.setting := by
  cases i with
  | begin =>
    cases exec_of_runsTo h nofun nofun
    rw [State.chip_of_history (s := s) (List.append_assoc ..)]
    simp
  | setGain code =>
    cases exec_of_runsTo h nofun nofun
    rfl
  | isReady =>
    have hbegun := hb.resolve_right (· rfl)
    cases exec_of_runsTo h nofun nofun
    have hchip := State.chip_of_history s.pinRead_history
    rw [List.foldl_cons, List.foldl_nil, ChipView.next_pinRead _ _ hbegun] at hchip
    exact congrArg ChipView.setting hchip
  | filterConfigure req =>
    rw [exec_filterConfigure_next (exec_of_runsTo h nofun nofun)]
    rfl
  | filterClear =>
    rw [exec_filterClear_next (exec_of_runsTo h nofun nofun)]
    rfl
  | filterAdd value =>
    rw [exec_filterAdd_next (exec_of_runsTo h nofun nofun)]
    rfl
  | filterGetMedian =>
    rw [State.chip_finishMedian (answer_eq_next.mp (exec_of_runsTo h nofun nofun))]
  | read | powerDown | powerUp | readMedian => cases hi

/-- Settles O27: a reading that completes selects by its pulses, and what does not complete one leaves the
setting. -/
theorem gainPipeline : Obligations.GainPipeline := by
  refine ⟨fun s t w i hm hf hd hi h hw hok hready => ?_, fun s t w timeout hm hf hd h hend hb => ?_,
    fun s t w i hm hf hd hi h hb => ?_⟩
  · obtain ⟨u, hr, hwait, hstatus, hset⟩ := step_command_setting hm hf hd h
    have hselects (hg : s.gainPulses ≠ 0) : u.chip.setting = settingOf s.gainPulses.toNat := by
      obtain ⟨timeout, rfl⟩ | ⟨times, rfl⟩ := hi
      · exact read_selects hr hready hg (hwait ▸ hw) (hstatus ▸ hok)
      · exact readMedian_selects hr hready hg (hwait ▸ hw) (hstatus ▸ hok)
    rw [hset]
    refine ⟨fun hg => ?_, fun hg => ?_, fun hg => ?_⟩ <;>
      rw [hselects (by rw [hg]; decide), hg] <;> rfl
  · obtain ⟨u, hr, hwait, hstatus, hset⟩ := step_command_setting hm hf hd h
    rw [hwait, hstatus] at hend
    exact hset.trans (congrArg ChipView.setting (read_chip hr hb hend))
  · obtain ⟨u, hr, -, -, hset⟩ := step_command_setting hm hf hd h
    exact hset.trans (runsTo_setting hi hr hb)

/-! ### The first conversion -/

theorem ChipView.next_low {clock : PinId} {v : ChipView} (h : v.begun = true) :
    v.next clock (.pinWrite clock .low) = v.fall := by
  simp only [ChipView.next, if_true, ChipView.called_of_begun _ h]

theorem ChipView.next_high {clock : PinId} {v : ChipView} (h : v.begun = true) :
    v.next clock (.pinWrite clock .high) = v.rise := by
  simp only [ChipView.next, if_true, ChipView.called_of_begun _ h]

@[simp] theorem ChipView.fall_begun (v : ChipView) : v.fall.begun = v.begun := by
  unfold ChipView.fall
  split <;> rfl

@[simp] theorem ChipView.rise_begun (v : ChipView) : v.rise.begun = v.begun := by
  unfold ChipView.rise
  split <;> rfl

@[simp] theorem ChipView.rise_clockHigh (v : ChipView) : v.rise.clockHigh = true := by
  unfold ChipView.rise
  split <;> rfl

/-- The LOW that wakes the chip (40_reader R116, 70_reset_and_hazards R242). -/
theorem ChipView.fall_of_down {v : ChipView} (h : v.power = .down) :
    v.fall = { v with clockHigh := false, power := .up, setting := some .a128 } := by
  simp only [ChipView.fall, h]

/-- BEGIN makes the clock pin an output (70_reset_and_hazards R234). -/
theorem exec_begin_chip {s t : State} (hpins : s.params.dataPin ≠ s.params.clockPin)
    (h : exec .begin s = .next t) :
    chipView s.params.clockPin t.history = { s.chip with begun := true } := by
  cases (exec_begin_eq s).symm.trans h
  rw [chipView_append]
  simp [ChipView.next, hpins, State.chip]

/-- POWER_DOWN is a LOW and a HIGH to the chip (40_reader R115). -/
theorem exec_powerDown_chip {s : State} (hb : s.chip.begun = true) :
    ∃ u, exec .powerDown s = .next u ∧ u.params = s.params ∧ u.wait = s.wait ∧
      u.chip = s.chip.fall.rise := by
  refine ⟨_, exec_powerDown_eq s, rfl, rfl, ?_⟩
  rw [State.chip_of_history (s := s) rfl, List.foldl_cons, List.foldl_cons, List.foldl_nil,
    ChipView.next_low hb, ChipView.next_high (by rw [ChipView.fall_begun, hb])]

/-- POWER_UP is a LOW to the chip (40_reader R116). -/
theorem exec_powerUp_chip {s : State} (hb : s.chip.begun = true) :
    ∃ u, exec .powerUp s = .next u ∧ u.params = s.params ∧ u.wait = s.wait ∧ u.chip = s.chip.fall := by
  refine ⟨_, rfl, rfl, rfl, ?_⟩
  rw [State.chip_of_history (s := s) rfl, List.foldl_cons, List.foldl_nil, ChipView.next_low hb]

/-- A command that finishes in the step that starts it: if it left the clock HIGH, its end powers the chip down
(40_reader R115). -/
theorem step_chip_of_finished {s u : State} {w : CommandWord} {i : Instr}
    (hp : s.params.wellFormed = true) (hw : s.wait = none) (hf : s.fetch = some w)
    (hd : decode w = .ok i) (he : exec i s = .next u) (hparams : u.params = s.params)
    (hwait : u.wait = s.wait) :
    ∃ t, step s = .next t ∧ chipView s.params.clockPin t.history = { u.chip with
      pulses := none
      power := if u.chip.clockHigh then .down else u.chip.power } := by
  have hstep := step_of_command hp hw hf hd
  rw [he, settleAnswer_finished (hwait.trans hw)] at hstep
  refine ⟨_, hstep, ?_⟩
  rw [State.complete_history, chipView_append, ← hparams]
  rfl

/-- Settles O58: a power cycle is a clock left HIGH by one command and written LOW by the next. -/
theorem firstConversionIsA128 : Obligations.FirstConversionIsA128 := by
  refine ⟨fun p => rfl, fun s t hpins hup h => ?_, fun s w hp hw hf hb => ⟨fun hd => ?_, fun hd hdown => ?_⟩⟩
  · rw [exec_begin_chip hpins h]
    exact decide_eq_true hup
  · obtain ⟨u, he, hparams, hwait, hu⟩ := exec_powerDown_chip hb
    obtain ⟨t, hstep, hchip⟩ := step_chip_of_finished hp hw hf hd he hparams hwait
    rw [hu, ChipView.rise_clockHigh] at hchip
    refine ⟨t, hstep, ?_⟩
    rw [hchip]
    exact ⟨rfl, by rw [ChipView.rise_begun, ChipView.fall_begun]; exact hb⟩
  · obtain ⟨u, he, hparams, hwait, hu⟩ := exec_powerUp_chip hb
    obtain ⟨t, hstep, hchip⟩ := step_chip_of_finished hp hw hf hd he hparams hwait
    rw [hu, ChipView.fall_of_down (v := s.chip) hdown] at hchip
    refine ⟨t, hstep, ?_⟩
    rw [nextSetting, hchip]
    exact ⟨Bool.and_eq_true_iff.mpr ⟨hb, rfl⟩, rfl⟩

end Sys2Proof.Machine

/-!
The filter commands, each as the exact state it answers and when (41_filter R140 to R146); what they leave
alone; the average of R152.
-/

namespace Sys2Proof.Machine

/-! ### What each filter command answers -/

/-- A command made of one filter step and its end answers exactly if the step does. -/
theorem answer_bind_eq_next {x : Except Fault State} {f : State → State} {t : State} :
    answer (x >>= fun u => .ok (f u)) = .next t ↔ ∃ u, x = .ok u ∧ t = f u := by
  cases x <;> simp [answer, bind, Except.bind, eq_comm]

/-- FILTER_CONFIGURE (41_filter R142). -/
theorem exec_filterConfigure_eq_next {req : Word} {s t : State} :
    exec (.filterConfigure req) s = .next t ↔ clamp s.params req ≤ s.ord.length ∧
      t = (s.cleared (clamp s.params req)).finish .ok (BitVec.ofNat 32 (clamp s.params req)) := by
  refine answer_bind_eq_next.trans ?_
  simp only [State.reconfigure_ok, and_assoc, exists_and_left, exists_eq_left]
  rfl

/-- FILTER_CLEAR (41_filter R144). -/
theorem exec_filterClear_eq_next {s t : State} :
    exec .filterClear s = .next t ↔
      s.capacity ≤ s.ord.length ∧ t = (s.cleared s.capacity).finish .ok 0 := by
  refine answer_bind_eq_next.trans ?_
  simp only [State.clearStep_ok, and_assoc, exists_and_left, exists_eq_left]
  rfl

/-- FILTER_ADD (41_filter R145). -/
theorem exec_filterAdd_eq_next {v : Word} {s t : State} :
    exec (.filterAdd v) s = .next t ↔
      (s.writeIndex < s.capacity ∧ s.writeIndex < s.buf.length) ∧ t = (s.added v).finish .ok 0 := by
  refine answer_bind_eq_next.trans ?_
  simp only [State.addStep_ok, and_assoc, exists_and_left, exists_eq_left]
  rfl

theorem exec_filterGetMedian_eq_next {s t : State} :
    exec .filterGetMedian s = .next t ↔ s.finishMedian = .ok t :=
  answer_eq_next

/-- Settles O31: the clear's one condition is that ORD holds the identity. -/
theorem filterClearEmpties : Obligations.FilterClearEmpties :=
  fun _ h => exec_filterClear_eq_next.mpr ⟨h, rfl⟩

/-- Settles O32: the add's one condition is that WRITE_INDEX names a slot. -/
theorem filterAddWritesRing : Obligations.FilterAddWritesRing :=
  fun _ _ h1 h2 => exec_filterAdd_eq_next.mpr ⟨⟨h1, h2⟩, rfl⟩

/-- A capacity taken is at most MAX_SIZE, which is a word (00_scope R6). -/
theorem toInt_ofNat_clamp {p : Params} (h : p.wellFormed = true) (req : Word) :
    (BitVec.ofNat 32 (clamp p req)).toInt = clamp p req := by
  have hmax := (clamp_range h req).2
  simp only [Params.wellFormed, Bool.and_eq_true, decide_eq_true_eq] at h
  rw [BitVec.toInt_eq_toNat_of_lt] <;> rw [BitVec.toNat_ofNat] <;> omega

/-- Settles O30: the capacity is the clamp's, which a physical ORD always holds. -/
theorem filterConfigureClampsAndClears : Obligations.FilterConfigureClampsAndClears := by
  rintro req s c hp hord hc
  obtain rfl : c = clamp s.params req := hc
  exact ⟨exec_filterConfigure_eq_next.mpr ⟨hord ▸ (clamp_range hp req).2, rfl⟩, toInt_ofNat_clamp hp req⟩

/-- Settles O34: by the window of the filter after the add. -/
theorem addSlidesWindow : Obligations.AddSlidesWindow := by
  intro v s t hf h
  obtain ⟨-, rfl⟩ := exec_filterAdd_eq_next.mp h
  exact ⟨hf.added_window v, (hf.added v).window_length⟩

/-! ### No host call, no GAIN_PULSES -/

/-- A filter command writes the filter's own elements, STATUS and RESULT (41_filter R140). -/
theorem exec_filter_frame {i : Instr} (hi : filterCommand i = true) {s t : State}
    (h : exec i s = .next t) : t = (State.withFilter t s).finish t.status t.result := by
  cases i with
  | begin | setGain | isReady | read | powerDown | powerUp | readMedian => cases hi
  | filterConfigure req =>
    obtain ⟨-, rfl⟩ := exec_filterConfigure_eq_next.mp h
    rfl
  | filterClear =>
    obtain ⟨-, rfl⟩ := exec_filterClear_eq_next.mp h
    rfl
  | filterAdd v =>
    obtain ⟨-, rfl⟩ := exec_filterAdd_eq_next.mp h
    rfl
  | filterGetMedian =>
    rw [State.finishMedian_frame (exec_filterGetMedian_eq_next.mp h)]
    rfl

/-- The state with another GAIN_PULSES. -/
def State.withGain (g : BitVec 2) (s : State) : State :=
  { s with gainPulses := g }

theorem State.valueAt_withGain (g : BitVec 2) (k : Nat) (s : State) :
    (s.withGain g).valueAt k = s.valueAt k := rfl

theorem State.ordRead_withGain (g : BitVec 2) (k : Nat) (s : State) :
    (s.withGain g).ordRead k = s.ordRead k := rfl

theorem State.ordWrite_withGain (g : BitVec 2) (k v : Nat) (s : State) :
    (s.withGain g).ordWrite k v = State.withGain g <$> s.ordWrite k v := by
  have hentry : writeEntry .ord (s.withGain g).ord (s.withGain g).capacity k v =
    writeEntry .ord s.ord s.capacity k v := rfl
  simp only [State.ordWrite, hentry]
  cases writeEntry .ord s.ord s.capacity k v <;> rfl

theorem State.compareExchange_withGain (g : BitVec 2) (j : Nat) (s : State) :
    (s.withGain g).compareExchange j = Prod.map id (State.withGain g) <$> s.compareExchange j := by
  simp only [State.compareExchange, State.valueAt_withGain, State.ordRead_withGain,
    State.ordWrite_withGain, map_bind, bind_map_left]
  congr! 4
  split <;> simp

theorem State.sortPass_withGain (g : BitVec 2) (n j : Nat) (s : State) :
    (s.withGain g).sortPass n j = Prod.map id (State.withGain g) <$> s.sortPass n j := by
  induction n generalizing j s with
  | zero => rfl
  | succ n ih =>
    simp only [State.sortPass, State.compareExchange_withGain, bind_map_left, map_bind, Prod.map, ih]
    rfl

theorem State.sortPasses_withGain (g : BitVec 2) (n : Nat) (s : State) :
    (s.withGain g).sortPasses n = Prod.map id (State.withGain g) <$> s.sortPasses n := by
  induction n generalizing s with
  | zero => rfl
  | succ n ih =>
    simp only [State.sortPasses, State.sortPass_withGain, bind_map_left, map_bind, Prod.map, ih]
    congr! 2
    split <;> simp_all

theorem State.sortStep_withGain (g : BitVec 2) (s : State) :
    (s.withGain g).sortStep = Prod.map id (State.withGain g) <$> s.sortStep :=
  State.sortPasses_withGain g (s.count - 1) s

theorem State.ensureSorted_withGain (g : BitVec 2) (s : State) :
    (s.withGain g).ensureSorted = State.withGain g <$> s.ensureSorted := by
  have hsorted : (s.withGain g).sorted = s.sorted := rfl
  simp only [State.ensureSorted, hsorted, State.sortStep_withGain]
  split
  · rfl
  · simp only [bind_map_left, map_bind]
    rfl

/-- The median step does not see GAIN_PULSES, whatever the state (41_filter R140). -/
theorem State.finishMedian_withGain (g : BitVec 2) (s : State) :
    (s.withGain g).finishMedian = State.withGain g <$> s.finishMedian := by
  have hcount : (s.withGain g).count = s.count := rfl
  by_cases hc : s.count = 0
  · simp only [State.finishMedian_empty hc, State.finishMedian_empty (hcount.trans hc)]
    rfl
  · simp only [State.finishMedian, State.medianStep, hcount, hc, if_false, State.ensureSorted_withGain,
      bind_map_left, map_bind, bind_assoc]
    congr! 2

/-- A filter command does the same with any GAIN_PULSES (41_filter R140). -/
theorem exec_filter_withGain {i : Instr} (hi : filterCommand i = true) {s t : State}
    (h : exec i s = .next t) (g : BitVec 2) : exec i (s.withGain g) = .next (t.withGain g) := by
  cases i with
  | begin | setGain | isReady | read | powerDown | powerUp | readMedian => cases hi
  | filterConfigure req =>
    obtain ⟨hcap, rfl⟩ := exec_filterConfigure_eq_next.mp h
    exact exec_filterConfigure_eq_next.mpr ⟨hcap, rfl⟩
  | filterClear =>
    obtain ⟨hcap, rfl⟩ := exec_filterClear_eq_next.mp h
    exact exec_filterClear_eq_next.mpr ⟨hcap, rfl⟩
  | filterAdd v =>
    obtain ⟨hslot, rfl⟩ := exec_filterAdd_eq_next.mp h
    exact exec_filterAdd_eq_next.mpr ⟨hslot, rfl⟩
  | filterGetMedian =>
    have hm := exec_filterGetMedian_eq_next.mp h
    refine exec_filterGetMedian_eq_next.mpr ?_
    rw [State.finishMedian_withGain, hm]
    rfl

/-- Settles O29: a filter command writes nothing else, and goes the same way with any GAIN_PULSES. -/
theorem filterMakesNoHostCall : Obligations.FilterMakesNoHostCall := by
  intro i s t hi h
  have hgain := exec_filter_withGain hi h
  rw [exec_filter_frame hi h] at hgain ⊢
  exact ⟨rfl, rfl, rfl, rfl, rfl, rfl, rfl, rfl, rfl, hgain⟩

/-! ### The average -/

/-- Settles O40: halving is monotone, so half of the sum of two words lies between the least and the greatest
word. -/
theorem averageIsExact : Obligations.AverageIsExact := by
  intro a b
  have ha := a.le_toInt
  have hb := b.le_toInt
  have ha' := a.toInt_lt
  have hb' := b.toInt_lt
  have hlow : (-2 ^ 32 : Int).tdiv 2 ≤ (a.toInt + b.toInt).tdiv 2 := Int.tdiv_le_tdiv two_pos (by omega)
  have hhigh : (a.toInt + b.toInt).tdiv 2 ≤ (2 ^ 32 - 2 : Int).tdiv 2 := Int.tdiv_le_tdiv two_pos (by omega)
  show (BitVec.ofInt 32 ((a.toInt + b.toInt).tdiv 2)).toInt = _
  rw [BitVec.toInt_ofInt]
  exact Int.bmod_eq_of_le hlow (Int.lt_of_le_sub_one hhigh)

end Sys2Proof.Machine

/-!
FILTER_GET_MEDIAN on a filter that holds a value (41_filter R148 to R155), the ring after a run of adds
(R146, R147), and the statements about them.
-/

namespace Sys2Proof.Machine

/-! ### The median -/

/-- The sort of a filter marked sorted moves nothing (41_filter R149). -/
theorem State.FilterInv.sortedOrd_of_sorted {s : State} (h : s.FilterInv) (hs : s.sorted = true) :
    s.sortedOrd = s.ord :=
  (congrArg (· ++ s.ord.drop s.count) (h.pairwise_of_sorted hs).insertionSort_eq).trans
    (List.take_append_drop _ _)

theorem State.FilterInv.inversionsBy_of_sorted {s : State} (h : s.FilterInv) (hs : s.sorted = true) :
    inversionsBy s.buf (s.ord.take s.count) = 0 :=
  (inversionsBy_eq ..).trans (inversionsOf_of_ordered (h.pairwise_of_sorted hs))

/-- The median step of a filter marked sorted makes no exchange (41_filter R149). -/
theorem State.FilterInv.medianTaken_of_sorted {s : State} (h : s.FilterInv) (hs : s.sorted = true) :
    s.medianTaken = { s with sortSwaps := 0 } := by
  rw [State.medianTaken, h.sortedOrd_of_sorted hs, h.inversionsBy_of_sorted hs, ← hs]

/-- FILTER_GET_MEDIAN on a filter that holds a value (41_filter R148, R149). -/
theorem State.FilterInv.exec_filterGetMedian {s : State} (h : s.FilterInv) (hc : 0 < s.count) :
    exec .filterGetMedian s = .next (s.medianTaken.finish .ok (medianOf s.held)) :=
  exec_filterGetMedian_eq_next.mpr (h.finishMedian_eq hc)

/-- Settles O36: ORD after the sort is that of a well formed filter marked sorted. -/
theorem getMedianOfHeld : Obligations.GetMedianOfHeld := by
  intro s h hc
  refine ⟨s.sortedOrd, inversionsBy s.buf (s.ord.take s.count), h.exec_filterGetMedian hc,
    h.sortedOrd_take_perm le_rfl, h.sortedOrd_drop, fun k i j a b hk hi hj ha hb => ?_,
    fun hs => ⟨h.sortedOrd_of_sorted hs, h.inversionsBy_of_sorted hs⟩⟩
  have hvalue : ∀ {k i : Nat} {a : Word}, s.sortedOrd[k]? = some i → s.buf[i]? = some a →
      s.medianTaken.valueOf k = some a := fun hi ha => (congrArg (Option.bind · _) hi).trans ha
  exact (h.medianTaken hc).ordered rfl k a b hk (hvalue hi ha) (hvalue hj hb)

/-- Settles O37: after a median the filter is marked sorted, with the same values held. -/
theorem secondMedianIsIdle : Obligations.SecondMedianIsIdle := by
  intro s t h hc hx
  cases (h.exec_filterGetMedian hc).symm.trans hx
  have ht : (s.medianTaken.finish .ok (medianOf s.held)).FilterInv := (h.medianTaken hc).congr
  rw [ht.exec_filterGetMedian hc, ht.medianTaken_of_sorted rfl]
  rfl

/-- Settles O38: the exchange sort gives the insertion by value. -/
theorem sortIsStableAscending : Obligations.SortIsStableAscending := by
  intro s t h hc _ hx
  cases (h.exec_filterGetMedian hc).symm.trans hx
  exact h.sortedOrd_take

/-! ### The ring -/

/-- The end of a command between adds does not touch the filter. -/
theorem State.addedAll_finish (vs : List Word) (st : Status) (r : Word) (s : State) :
    (s.finish st r).addedAll vs = (s.addedAll vs).finish st r := by
  induction vs generalizing s with
  | nil => rfl
  | cons v vs ih => exact ih (s.added v)

/-- A run of FILTER_ADD on a well formed filter adds its values in order (41_filter R147). -/
theorem State.FilterInv.addAll_eq {s : State} (h : s.FilterInv) (vs : List Word) :
    ∃ st r, addAll vs s = .next ((s.addedAll vs).finish st r) := by
  induction vs generalizing s with
  | nil => exact ⟨s.status, s.result, rfl⟩
  | cons v vs ih =>
    have hadd : exec (.filterAdd v) s = .next ((s.added v).finish .ok 0) :=
      exec_filterAdd_eq_next.mpr ⟨⟨h.writeIndex_lt, h.writeIndex_lt_buf⟩, rfl⟩
    obtain ⟨st, r, hrest⟩ := ih (s := (s.added v).finish .ok 0) (h.added v).congr
    refine ⟨st, r, ?_⟩
    rw [addAll, hadd]
    exact hrest.trans (by rw [State.addedAll_finish]; rfl)

/-- The window of a full ring reads BUF from WRITE_INDEX on, round its end (10_state R28, item 6). -/
theorem State.FilterInv.window_getElem? {s : State} (h : s.FilterInv) (hfull : s.capacity ≤ s.count)
    {i : Nat} (hi : i < s.capacity) :
    s.window[i]? = s.buf[(s.writeIndex + i) % s.capacity]? := by
  have hw := h.writeIndex_lt
  have hlen : ((s.buf.take s.capacity).drop s.writeIndex).length = s.capacity - s.writeIndex := by
    rw [List.length_drop, List.length_take, Nat.min_eq_left h.capacity_le_buf]
  rw [State.window_of_full hfull]
  rcases Nat.lt_or_ge i (s.capacity - s.writeIndex) with hlt | hge
  · rw [List.getElem?_append_left (hlen ▸ hlt), List.getElem?_drop, List.getElem?_take_of_lt (by omega),
      Nat.mod_eq_of_lt (by omega)]
  · have hwrap : (s.writeIndex + i) % s.capacity = i - (s.capacity - s.writeIndex) := by
      rw [Nat.mod_eq_sub_mod (by omega), Nat.mod_eq_of_lt (by omega)]
      omega
    rw [List.getElem?_append_right (hlen ▸ hge), hlen, List.getElem?_take_of_lt (by omega), hwrap]

/-- Settles O33: slot `j mod N` is the one the window, which is the last `N` values, reads value `j` from. -/
theorem ringHoldsLastValues : Obligations.RingHoldsLastValues := by
  intro vs s h hzero hlen
  obtain ⟨st, r, hadd⟩ := h.addAll_eq vs
  have hpos := h.writeIndex_lt
  have hw0 : s.writeIndex = 0 := (h.partly_filled (by omega)).trans hzero
  have hcount : (s.addedAll vs).count = s.capacity := by rw [h.addedAll_count]; omega
  have hwrite : (s.addedAll vs).writeIndex = vs.length % s.capacity := by
    rw [h.addedAll_writeIndex, hw0, Nat.zero_add]
  have hwindow : (s.addedAll vs).window = lastOf s.capacity vs := by
    have hempty : s.window = [] := List.eq_nil_of_length_eq_zero (h.window_length.trans hzero)
    rw [h.addedAll_window, hempty, List.nil_append]
  refine ⟨_, hadd, hcount, State.addedAll_capacity vs s, hwrite.trans (Nat.mod_eq_sub_mod hlen), ?_⟩
  intro j v hj hv
  have hjlt : j < vs.length := (List.getElem?_eq_some_iff.mp hv).1
  obtain ⟨i, rfl⟩ := Nat.exists_eq_add_of_le hj
  have hslot := (h.addedAll vs).window_getElem? (i := i) (by rw [hcount, State.addedAll_capacity])
    (by rw [State.addedAll_capacity]; omega)
  have hmod : (vs.length % s.capacity + i) % s.capacity = (vs.length - s.capacity + i) % s.capacity := by
    rw [Nat.mod_eq_sub_mod hlen, Nat.mod_add_mod]
  rw [hwindow, lastOf, List.getElem?_drop, hv, hwrite, State.addedAll_capacity, hmod] at hslot
  exact hslot.symm

end Sys2Proof.Machine

/-!
The slots of BUF that hold no value: states that differ in them only go on alike (10_state section 4), and the
statement UnwrittenSlotsUnobserved.
-/

namespace Sys2Proof.Machine

/-- The states are equal but for the slots of BUF at and above COUNT, which hold no value. -/
def State.SameHeld (s u : State) : Prop :=
  ∃ b, u = { s with buf := b } ∧ b.length = s.buf.length ∧ b.take s.count = s.buf.take s.count

/-- States equal but for unwritten slots, the first with a well formed filter, get an answer from both or from
neither, and it leaves such states. -/
def IgnoresUnwritten (f : State → Except Fault State) : Prop :=
  ∀ ⦃s u t : State⦄, s.FilterInv → s.SameHeld u → f s = .ok t → ∃ v, f u = .ok v ∧ t.SameHeld v

theorem getElem?_of_take_eq {α : Type} {l m : List α} {n i : Nat} (h : l.take n = m.take n) (hi : i < n) :
    l[i]? = m[i]? := by
  rw [← List.getElem?_take_of_lt hi, h, List.getElem?_take_of_lt hi]

/-! ### The filter's steps -/

theorem State.FilterInv.sameHeld {s u : State} (h : s.FilterInv) (hu : s.SameHeld u) : u.FilterInv := by
  obtain ⟨b, rfl, hlen, hheld⟩ := hu
  have hvalue : ∀ k, k < s.count → State.valueOf { s with buf := b } k = s.valueOf k := by
    intro k hk
    obtain ⟨i, hi, hic, -⟩ := h.valueAt hk
    simp only [State.valueOf, hi, Option.bind_some, getElem?_of_take_eq hheld hic]
  refine { h with buf_length := hlen.trans h.buf_length, ordered := fun hs k a b' hk ha hb => ?_ }
  rw [hvalue k (Nat.lt_of_succ_lt hk)] at ha
  rw [hvalue (k + 1) hk] at hb
  exact h.ordered hs k a b' hk ha hb

theorem State.SameHeld.cleared {s u : State} (h : s.SameHeld u) (c : Nat) :
    (s.cleared c).SameHeld (u.cleared c) := by
  obtain ⟨b, rfl, hlen, -⟩ := h
  exact ⟨b, rfl, hlen, rfl⟩

/-- An add writes the slot the values held grow into, or one of those that hold a value. -/
theorem State.SameHeld.added {s u : State} (h : s.SameHeld u) (hf : s.FilterInv) (v : Word) :
    (s.added v).SameHeld (u.added v) := by
  have hslot := hf.writeIndex_lt_buf
  have hslotu := (hf.sameHeld h).writeIndex_lt_buf
  obtain ⟨b, rfl, hlen, hheld⟩ := h
  refine ⟨b.set s.writeIndex v, rfl, by simpa [State.added] using hlen, ?_⟩
  show (b.set s.writeIndex v).take (s.added v).count = (s.buf.set s.writeIndex v).take (s.added v).count
  rcases Nat.lt_or_ge s.count s.capacity with hlt | hge
  · have hcount : (s.added v).count = s.writeIndex + 1 := by
      rw [hf.partly_filled hlt]
      exact if_pos hlt
    rw [hcount, take_set_succ hslotu, take_set_succ hslot, hf.partly_filled hlt, hheld]
  · have hcount : (s.added v).count = s.count := if_neg (Nat.not_lt.mpr hge)
    rw [hcount, List.take_set, List.take_set, hheld]

/-- What a filter sorts by are the values its entries of ORD in use name. -/
theorem orderBy_congr {b b' : List Word} {l : List Nat} (h : ∀ i ∈ l, b.getD i 0 = b'.getD i 0) :
    orderBy b l = orderBy b' l := by
  have hmap := List.map_insertionSort (fun i j => (b.getD i 0).toInt ≤ (b.getD j 0).toInt)
    (fun i j => (b'.getD i 0).toInt ≤ (b'.getD j 0).toInt) id l fun i hi j hj => by
      rw [h i hi, h j hj]; rfl
  simpa [orderBy] using hmap

theorem inversionsBy_congr {b b' : List Word} {l : List Nat} (h : ∀ i ∈ l, b.getD i 0 = b'.getD i 0) :
    inversionsBy b l = inversionsBy b' l :=
  congrArg inversions (List.map_congr_left h)

/-- The median step reads the values held only (41_filter R148, R149). -/
theorem ignoresUnwritten_finishMedian : IgnoresUnwritten State.finishMedian := by
  intro s u t hf h ht
  have hfu := hf.sameHeld h
  obtain ⟨b, rfl, hlen, hheld⟩ := h
  rcases Nat.eq_zero_or_pos s.count with hc | hc
  · cases (State.finishMedian_empty hc).symm.trans ht
    exact ⟨_, State.finishMedian_empty (s := { s with buf := b }) hc, b, rfl, hlen, hheld⟩
  · cases (hf.finishMedian_eq hc).symm.trans ht
    have hvalues : ∀ i ∈ s.ord.take s.count, b.getD i 0 = s.buf.getD i 0 := fun i hi => by
      have hic := List.mem_range.mp (hf.ord_prefix.mem_iff.mp hi)
      rw [List.getD_eq_getElem?_getD, List.getD_eq_getElem?_getD, getElem?_of_take_eq hheld hic]
    have htaken : State.medianTaken { s with buf := b } = { s.medianTaken with buf := b } := by
      simp only [State.medianTaken, State.sortedOrd, orderBy_congr hvalues, inversionsBy_congr hvalues]
    have hheld' : State.held { s with buf := b } = s.held := hheld
    refine ⟨_, hfu.finishMedian_eq hc, b, ?_, hlen, hheld⟩
    rw [htaken, hheld']
    rfl

/-! ### The waits -/

theorem State.SameHeld.readFrom {s u : State} (h : s.SameHeld u) (start timeout : Word) (p : Nat) :
    (s.readFrom start timeout p).SameHeld (u.readFrom start timeout p) := by
  obtain ⟨b, rfl, hlen, hheld⟩ := h
  obtain ⟨hlate, -⟩ | ⟨hclock, hlevel, -⟩ | ⟨hclock, hlevel, -⟩ := s.poll_cases start timeout p
  · rw [State.readFrom_late hlate, State.readFrom_late (s := { s with buf := b }) hlate]
    exact ⟨b, rfl, hlen, hheld⟩
  · rw [State.readFrom_low hclock hlevel, State.readFrom_low (s := { s with buf := b }) hclock hlevel]
    exact ⟨b, rfl, hlen, hheld⟩
  · rw [State.readFrom_high hclock hlevel, State.readFrom_high (s := { s with buf := b }) hclock hlevel]
    exact ⟨b, rfl, hlen, hheld⟩

theorem State.SameHeld.now {s u : State} (h : s.SameHeld u) : s.now.2.SameHeld u.now.2 := by
  obtain ⟨b, rfl, hlen, hheld⟩ := h
  exact ⟨b, rfl, hlen, hheld⟩

theorem State.SameHeld.afterWait {s u : State} (h : s.SameHeld u) (hf : s.FilterInv) (r : Reading) :
    (s.afterWait r).SameHeld (u.afterWait r) := by
  obtain ⟨b', hadded, hlen', hheld'⟩ := h.added hf r.value
  obtain ⟨b, rfl, -, -⟩ := h
  refine ⟨b', ?_, hlen', hheld'⟩
  rw [State.afterWait, hadded]
  rfl

/-- One iteration of READ_MEDIAN's wait, if the readings that follow it ignore unwritten slots. -/
theorem IgnoresUnwritten.medianFrom {left : Nat} (hleft : IgnoresUnwritten (State.takeReadings left))
    (start : Word) (p : Nat) : IgnoresUnwritten (State.medianFrom left start p) := by
  intro s u t hf h ht
  have hfu := hf.sameHeld h
  have hwait := h.afterWait hf (s.lowReading start p)
  obtain ⟨b, rfl, hlen, hheld⟩ := h
  obtain ⟨hlate, -⟩ | ⟨hclock, hlevel, -⟩ | ⟨hclock, hlevel, -⟩ := s.poll_cases start 1000 p
  · cases (State.medianFrom_late hlate).symm.trans ht
    exact ⟨_, State.medianFrom_late (s := { s with buf := b }) hlate, b, rfl, hlen, hheld⟩
  · obtain ⟨v, hv, hsame⟩ := hleft (hf.added _).congr hwait ((hf.medianFrom_low hclock hlevel).symm.trans ht)
    exact ⟨v, (hfu.medianFrom_low hclock hlevel).trans hv, hsame⟩
  · cases (State.medianFrom_high hclock hlevel).symm.trans ht
    exact ⟨_, State.medianFrom_high (s := { s with buf := b }) hclock hlevel, b, rfl, hlen, hheld⟩

theorem ignoresUnwritten_takeReadings (n : Nat) : IgnoresUnwritten (State.takeReadings n) := by
  induction n with
  | zero => exact ignoresUnwritten_finishMedian
  | succ n ih =>
    intro s u t hf h ht
    have hnow := h.now
    have hrest := ih.medianFrom s.now.1 s.now.2.freshPatience hf.congr hnow ht
    obtain ⟨b, rfl, -, -⟩ := h
    exact hrest

/-! ### Commands and steps -/

theorem State.SameHeld.params {s u : State} (h : s.SameHeld u) : u.params = s.params := by
  obtain ⟨b, rfl, -, -⟩ := h
  rfl

theorem State.SameHeld.finish {s u : State} (h : s.SameHeld u) (st : Status) (r : Word) :
    (s.finish st r).SameHeld (u.finish st r) := by
  obtain ⟨b, rfl, hlen, hheld⟩ := h
  exact ⟨b, rfl, hlen, hheld⟩

theorem State.SameHeld.unwaited {s u : State} (h : s.SameHeld u) : s.unwaited.SameHeld u.unwaited := by
  obtain ⟨b, rfl, hlen, hheld⟩ := h
  exact ⟨b, rfl, hlen, hheld⟩

theorem State.SameHeld.settle {s u : State} (h : s.SameHeld u) (w : CommandWord) :
    (s.settle w).SameHeld (u.settle w) := by
  obtain ⟨b, rfl, hlen, hheld⟩ := h
  rcases Option.eq_none_or_eq_some s.wait with hw | ⟨wait, hw⟩
  · rw [State.settle_of_wait_none w hw, State.settle_of_wait_none (s := { s with buf := b }) w hw]
    exact ⟨b, rfl, hlen, hheld⟩
  · rw [State.settle_of_wait_some w hw, State.settle_of_wait_some (s := { s with buf := b }) w hw]
    exact ⟨b, rfl, hlen, hheld⟩

theorem State.Inv.sameHeld {s u : State} (hs : s.Inv) (h : s.SameHeld u) : u.Inv := by
  have hf := hs.filter.sameHeld h
  obtain ⟨b, rfl, -, -⟩ := h
  exact { hs with filter := hf, waits := hs.waits }

/-- READ_MEDIAN, whatever its count (42_composite R180, R181). -/
theorem State.SameHeld.exec_readMedian {times : Word} {s u t : State} (h : s.SameHeld u) (hs : s.Inv)
    (ht : exec (.readMedian times) s = .next t) :
    ∃ v, exec (.readMedian times) u = .next v ∧ t.SameHeld v := by
  rcases lt_or_ge 0 times.toInt with hpos | hle
  · have hn : times.toInt = times.toInt.toNat := (Int.toNat_of_nonneg hpos.le).symm
    have hn0 : 0 < times.toInt.toNat := by omega
    rw [exec_readMedian_eq hs hn hn0] at ht
    rw [exec_readMedian_eq (hs.sameHeld h) hn hn0, h.params]
    obtain ⟨v, hv, hsame⟩ :=
      ignoresUnwritten_takeReadings _ (hs.cleared times) (h.cleared _) (answer_eq_next.mp ht)
    exact ⟨v, answer_eq_next.mpr hv, hsame⟩
  · have hraise : ∀ x : State, exec (.readMedian times) x = .next (x.raise .emptyFilter) :=
      fun _ => if_pos hle
    cases (hraise s).symm.trans ht
    exact ⟨_, hraise u, h.finish _ _⟩

/-- A command started in states equal but for unwritten slots leaves such states. -/
theorem State.SameHeld.exec {i : Instr} {s u t : State} (h : s.SameHeld u) (hs : s.Inv)
    (ht : exec i s = .next t) : ∃ v, exec i u = .next v ∧ t.SameHeld v := by
  have hfu := hs.filter.sameHeld h
  cases i with
  | begin | setGain | isReady | powerDown | powerUp =>
    cases ht
    obtain ⟨b, rfl, hlen, hheld⟩ := h
    exact ⟨_, rfl, b, rfl, hlen, hheld⟩
  | read timeout =>
    cases ht
    have hread := h.now.readFrom s.now.1 timeout s.now.2.freshPatience
    obtain ⟨b, rfl, -, -⟩ := h
    exact ⟨_, rfl, hread⟩
  | filterConfigure req =>
    obtain ⟨hcap, rfl⟩ := exec_filterConfigure_eq_next.mp ht
    obtain ⟨b, rfl, hlen, -⟩ := h
    exact ⟨_, exec_filterConfigure_eq_next.mpr ⟨hcap, rfl⟩, b, rfl, hlen, rfl⟩
  | filterClear =>
    obtain ⟨hcap, rfl⟩ := exec_filterClear_eq_next.mp ht
    obtain ⟨b, rfl, hlen, -⟩ := h
    exact ⟨_, exec_filterClear_eq_next.mpr ⟨hcap, rfl⟩, b, rfl, hlen, rfl⟩
  | filterAdd v =>
    obtain ⟨-, rfl⟩ := exec_filterAdd_eq_next.mp ht
    exact ⟨_, exec_filterAdd_eq_next.mpr ⟨⟨hfu.writeIndex_lt, hfu.writeIndex_lt_buf⟩, rfl⟩,
      (h.added hs.filter v).finish .ok 0⟩
  | filterGetMedian =>
    obtain ⟨v, hv, hsame⟩ :=
      ignoresUnwritten_finishMedian hs.filter h (exec_filterGetMedian_eq_next.mp ht)
    exact ⟨v, exec_filterGetMedian_eq_next.mpr hv, hsame⟩
  | readMedian times => exact h.exec_readMedian hs ht

/-- So does a command that goes on from its wait. -/
theorem State.SameHeld.resume {wait : Wait} {s u t : State} (h : s.SameHeld u) (hf : s.FilterInv)
    (ht : resume wait s = .next t) : ∃ v, resume wait u = .next v ∧ t.SameHeld v := by
  obtain ⟨start, task, p⟩ := wait
  cases task with
  | read timeout =>
    cases ht
    exact ⟨_, rfl, h.unwaited.readFrom start timeout p⟩
  | median left =>
    obtain ⟨v, hv, hsame⟩ := (ignoresUnwritten_takeReadings left).medianFrom start p hf.unwaited h.unwaited
      (answer_eq_next.mp ht)
    exact ⟨v, answer_eq_next.mpr hv, hsame⟩

theorem step_of_fetch_none {s : State} (hp : s.params.wellFormed = true) (hf : s.fetch = none) :
    step s = .next s := by
  simp [step, hp, hf]

/-- A step from states equal but for unwritten slots leaves such states. -/
theorem State.SameHeld.step {s u t : State} (h : s.SameHeld u) (hs : s.Inv) (ht : step s = .next t) :
    ∃ v, step u = .next v ∧ t.SameHeld v := by
  have hpu : u.params.wellFormed = true := (hs.sameHeld h).params_wf
  have hport : u.fetch = s.fetch ∧ u.wait = s.wait := by
    obtain ⟨b, rfl, -, -⟩ := h
    exact ⟨rfl, rfl⟩
  obtain ⟨hfetch, hwait⟩ := hport
  obtain ⟨hf, rfl⟩ | ⟨w, s', hf, rfl, hrun⟩ := step_eq_next ht
  · exact ⟨u, step_of_fetch_none hpu (hfetch.trans hf), h⟩
  have hfu := hfetch.trans hf
  obtain ⟨wait, hw, hr⟩ | ⟨hw, e, hd, rfl⟩ | ⟨hw, i, hd, he⟩ := hrun
  · obtain ⟨v, hv, hsame⟩ := h.resume hs.filter hr
    exact ⟨v.settle w, by rw [step_of_wait hpu (hwait.trans hw) hfu, hv]; rfl, hsame.settle w⟩
  · exact ⟨_, step_of_illegal hpu (hwait.trans hw) hfu hd, (h.finish .illegalCommand 0).settle w⟩
  · obtain ⟨v, hv, hsame⟩ := h.exec hs he
    exact ⟨v.settle w, by rw [step_of_command hpu (hwait.trans hw) hfu hd, hv]; rfl, hsame.settle w⟩

/-- Settles O52: being equal but for unwritten slots is kept by every part of a step. -/
theorem unwrittenSlotsUnobserved : Obligations.UnwrittenSlotsUnobserved := by
  intro s t b hs hlen hheld ht
  obtain ⟨v, hv, b', rfl, hlen', hheld'⟩ := State.SameHeld.step ⟨b, rfl, hlen, hheld⟩ hs ht
  exact ⟨b', hv, hlen', hheld'⟩

end Sys2Proof.Machine

/-!
EMPTY_FILTER (60_exceptions R202): a median asked of an empty filter, READ_MEDIAN of a count that is not positive
(42_composite R181), and the statement EmptyFilterRaised.
-/

namespace Sys2Proof.Machine

/-- FILTER_GET_MEDIAN on an empty filter (41_filter R149, 60_exceptions R202). -/
theorem exec_filterGetMedian_empty {s : State} (hc : s.count = 0) :
    exec .filterGetMedian s = .next (s.raise .emptyFilter) :=
  exec_filterGetMedian_eq_next.mpr (State.finishMedian_empty hc)

/-- READ_MEDIAN of a count that is not positive ends at its first check (42_composite R181). -/
theorem exec_readMedian_nonpos {times : Word} (s : State) (hle : times.toInt ≤ 0) :
    exec (.readMedian times) s = .next (s.raise .emptyFilter) :=
  if_pos hle

/-- Settles O35: both commands answer with one raise, and a raise writes STATUS and RESULT only. -/
theorem emptyFilterRaised : Obligations.EmptyFilterRaised :=
  fun s => ⟨exec_filterGetMedian_empty, fun _ => exec_readMedian_nonpos s⟩

end Sys2Proof.Machine

/-!
The status each command finishes with (60_exceptions R200, R207), and the statement StatusOfEachCommand.
-/

namespace Sys2Proof.Machine

/-! ### The end of a median command -/

/-- The end of a median command raises EmptyFilter with no value held, and completes with one (41_filter R149). -/
theorem State.finishMedian_status {s t : State} (h : s.finishMedian = .ok t) :
    t.status = if s.count = 0 then .emptyFilter else .ok := by
  obtain ⟨⟨m, s1⟩, hm, hend⟩ := bind_eq_ok h
  cases hend
  obtain ⟨hc, rfl, rfl⟩ | ⟨hc, ⟨v, rfl⟩, -⟩ := State.medianStep_frame hm
  · rw [if_pos hc]
    rfl
  · rw [if_neg hc]
    rfl

/-- An add that answers leaves a value held, whatever filter it found. -/
theorem State.addStep_count_pos {s t : State} {v : Word} (h : s.addStep v = .ok t) : 0 < t.count := by
  obtain ⟨⟨hcap, -⟩, rfl⟩ := State.addStep_ok.mp h
  show 0 < if s.count < s.capacity then s.count + 1 else s.count
  split <;> omega

/-! ### READ and READ_MEDIAN -/

/-- An iteration of READ that finishes the command has completed it or timed out (40_reader R107). -/
theorem State.readFrom_status {s : State} {start timeout : Word} {p : Nat}
    (hw : (s.readFrom start timeout p).wait = none) :
    (s.readFrom start timeout p).status = .ok ∨ (s.readFrom start timeout p).status = .timedOut := by
  obtain hr | hr | hr := s.readFrom_parts start timeout p <;> rw [hr] at hw ⊢
  · exact .inr rfl
  · cases hw
  · exact .inl rfl

/-- READ that finishes, at its start or from its wait, has completed or timed out. -/
theorem read_status {timeout : Word} {s u : State} (h : runsTo (.read timeout) s u) (hw : u.wait = none) :
    u.status = .ok ∨ u.status = .timedOut := by
  obtain ⟨start, p, ⟨rfl, -⟩ | rfl⟩ := readFrom_of_runsTo h <;> exact State.readFrom_status hw

/-- A wait of READ_MEDIAN whose iteration finishes the command has completed it or timed out: by then a reading
has been added, so the median step finds a value. -/
theorem State.medianFrom_status {left : Nat} {start : Word} {p : Nat} {s t : State}
    (h : s.medianFrom left start p = .ok t) (hw : t.wait = none) :
    t.status = .ok ∨ t.status = .timedOut := by
  induction left generalizing s start p with
  | zero =>
    obtain rfl | rfl | ⟨u, ha, hm⟩ := State.medianFrom_cases h
    · exact .inr rfl
    · cases hw
    · exact .inl ((State.finishMedian_status hm).trans (if_neg (State.addStep_count_pos ha).ne'))
  | succ n ih =>
    obtain rfl | rfl | ⟨u, -, hm⟩ := State.medianFrom_cases h
    · exact .inr rfl
    · cases hw
    · exact ih hm

/-- READ_MEDIAN ends at its first check exactly if its count is not positive; else, from its start or from a wait
of its own, it makes an iteration of a wait (42_composite R180, R181). -/
theorem medianFrom_of_runsTo {times : Word} {s u : State} (h : runsTo (.readMedian times) s u) :
    (times.toInt ≤ 0 ∧ u = s.raise .emptyFilter) ∨
      (0 < times.toInt ∧ ∃ v left start p, State.medianFrom left start p v = .ok u) := by
  obtain ⟨-, h⟩ | ⟨⟨start, task, p⟩, -, hi, h⟩ := h
  · rcases le_or_gt times.toInt 0 with hle | hpos
    · cases (exec_readMedian_nonpos s hle).symm.trans h
      exact .inl ⟨hle, rfl⟩
    · have hn : ¬s32 times ≤ 0 := Int.not_le.mpr hpos
      replace h : execReadMedian times s = .next u := h
      rw [execReadMedian, if_neg hn] at h
      obtain ⟨v, -, hm⟩ := bind_eq_ok (answer_eq_next.mp h)
      exact .inr ⟨hpos, _, _, _, _, hm⟩
  · cases task with
    | read timeout => cases hi
    | median left =>
      obtain ⟨times', hi, hlt⟩ := hi
      cases hi
      exact .inr ⟨by omega, _, _, _, _, answer_eq_next.mp h⟩

/-- READ_MEDIAN that finishes raises EmptyFilter exactly if its count is not positive (60_exceptions R202). -/
theorem readMedian_status {times : Word} {s u : State} (h : runsTo (.readMedian times) s u)
    (hw : u.wait = none) :
    if times.toInt ≤ 0 then u.status = .emptyFilter else u.status = .ok ∨ u.status = .timedOut := by
  obtain ⟨hle, rfl⟩ | ⟨hpos, v, left, start, p, hm⟩ := medianFrom_of_runsTo h
  · rw [if_pos hle]
    rfl
  · rw [if_neg (Int.not_le.mpr hpos)]
    exact State.medianFrom_status hm hw

/-! ### The other commands -/

/-- Every command but READ, FILTER_GET_MEDIAN and READ_MEDIAN completes. -/
theorem status_ok_of_runsTo {i : Instr} {s u : State} (h : runsTo i s u)
    (hread : ∀ timeout, i ≠ .read timeout) (hget : i ≠ .filterGetMedian)
    (hmedian : ∀ times, i ≠ .readMedian times) : u.status = .ok := by
  have he := exec_of_runsTo h hread hmedian
  cases i with
  | begin | setGain | isReady | powerDown | powerUp =>
    cases he
    rfl
  | filterConfigure req => exact exec_filterConfigure_next he ▸ rfl
  | filterClear => exact exec_filterClear_next he ▸ rfl
  | filterAdd value => exact exec_filterAdd_next he ▸ rfl
  | read timeout => exact absurd rfl (hread timeout)
  | filterGetMedian => exact absurd rfl hget
  | readMedian times => exact absurd rfl (hmedian times)

/-- Settles O50: RESULT is 0 with an error by the invariant; the status is the one of the command that ran, which
settling it does not write. -/
theorem statusOfEachCommand : Obligations.StatusOfEachCommand := by
  refine ⟨⟨rfl, rfl, rfl, rfl⟩, fun s t w hs hf h hw => ⟨(invariantKept s t hs h).error_result, ?_⟩⟩
  obtain ⟨hn, -⟩ | ⟨w', u, hf', rfl, hu⟩ := step_runs hs.waits h
  · cases hf.symm.trans hn
  cases hf.symm.trans hf'
  rw [State.settle_wait] at hw
  rw [State.settle_status]
  obtain ⟨-, e, hd, rfl⟩ | ⟨i, hd, hr⟩ := hu
  · rw [hd]
    rfl
  rw [hd]
  cases i with
  | read timeout => exact read_status hr hw
  | filterGetMedian =>
    exact State.finishMedian_status (answer_eq_next.mp (exec_of_runsTo hr nofun nofun))
  | readMedian times => exact readMedian_status hr hw
  | begin | setGain | isReady | powerDown | powerUp | filterConfigure | filterClear | filterAdd =>
    exact status_ok_of_runsTo hr nofun nofun nofun

end Sys2Proof.Machine

/-!
Construction (70_reset_and_hazards R230), and the statement ConstructionValues.
-/

namespace Sys2Proof.Machine

/-- The clamp of 41_filter R141 on integers. -/
theorem clamp_eq_max_min {p : Params} (h : p.wellFormed = true) (req : Word) :
    (clamp p req : Int) = max (p.minSize : Int) (min (p.maxSize : Int) req.toInt) := by
  simp only [Params.wellFormed, Bool.and_eq_true, decide_eq_true_eq] at h
  unfold clamp s32
  split
  · omega
  · split <;> omega

/-- Settles O49: ORD in use is the identity, since the clamp leaves the capacity at most MAX_SIZE. -/
theorem constructionValues : Obligations.ConstructionValues := by
  intro p h
  have hord : ∀ i, i < clamp p p.capacityInit → (List.range p.maxSize)[i]? = some i := fun i hi =>
    List.getElem?_range (hi.trans_le (clamp_range h p.capacityInit).2)
  exact ⟨rfl, gainPulses_eq p.gainCodeInit, clamp_eq_max_min h p.capacityInit, rfl, rfl, rfl, hord, rfl, rfl,
    rfl, rfl, List.length_replicate, List.length_range, rfl⟩

end Sys2Proof.Machine

/-!
The history is written and never read: after more events before its own history the engine does the same
(70_reset_and_hazards R236, "no rule of the engine changes").
-/

namespace Sys2Proof.Machine

/-! ### The median step

It reads the filter only, so it does the same with the filter of `s` in any state `b`. -/

section
variable (s b : State)

theorem State.valueAt_withFilter (k : Nat) : (s.withFilter b).valueAt k = s.valueAt k := rfl

theorem State.ordRead_withFilter (k : Nat) : (s.withFilter b).ordRead k = s.ordRead k := rfl

theorem State.ordWrite_withFilter (k v : Nat) :
    (s.withFilter b).ordWrite k v = (·.withFilter b) <$> s.ordWrite k v := by
  have hentry : writeEntry .ord (s.withFilter b).ord (s.withFilter b).capacity k v =
    writeEntry .ord s.ord s.capacity k v := rfl
  simp only [State.ordWrite, hentry]
  cases writeEntry .ord s.ord s.capacity k v <;> rfl

theorem State.compareExchange_withFilter (j : Nat) :
    (s.withFilter b).compareExchange j = Prod.map id (·.withFilter b) <$> s.compareExchange j := by
  simp only [State.compareExchange, State.valueAt_withFilter, State.ordRead_withFilter,
    State.ordWrite_withFilter, map_bind, bind_map_left]
  congr! 4
  split <;> simp

theorem State.sortPass_withFilter (n j : Nat) :
    (s.withFilter b).sortPass n j = Prod.map id (·.withFilter b) <$> s.sortPass n j := by
  induction n generalizing j s with
  | zero => rfl
  | succ n ih =>
    simp only [State.sortPass, State.compareExchange_withFilter, bind_map_left, map_bind, Prod.map, ih]
    rfl

theorem State.sortPasses_withFilter (n : Nat) :
    (s.withFilter b).sortPasses n = Prod.map id (·.withFilter b) <$> s.sortPasses n := by
  induction n generalizing s with
  | zero => rfl
  | succ n ih =>
    simp only [State.sortPasses, State.sortPass_withFilter, bind_map_left, map_bind, Prod.map, ih]
    congr! 2
    split <;> simp_all

theorem State.ensureSorted_withFilter :
    (s.withFilter b).ensureSorted = (·.withFilter b) <$> s.ensureSorted := by
  have hsorted : (s.withFilter b).sorted = s.sorted := rfl
  have hcount : (s.withFilter b).count = s.count := rfl
  simp only [State.ensureSorted, State.sortStep, hsorted, hcount, State.sortPasses_withFilter]
  split
  · rfl
  · simp only [bind_map_left, map_bind]
    rfl

theorem State.medianStep_withFilter :
    (s.withFilter b).medianStep = Prod.map id (·.withFilter b) <$> s.medianStep := by
  have hcount : (s.withFilter b).count = s.count := rfl
  simp only [State.medianStep, hcount, State.ensureSorted_withFilter]
  split
  · rfl
  · simp only [bind_map_left, map_bind]
    rfl

end

/-! ### Host calls -/

/-- The state with the events `h` before its own history. -/
def State.after (h : List Event) (s : State) : State :=
  { s with history := h ++ s.history }

theorem State.record_after (h : List Event) (e : Event) (s : State) :
    (s.after h).record e = (s.record e).after h := by
  simp only [State.record, State.after, List.append_assoc]

section
variable (h : List Event) (s : State)

theorem State.tellClock_after (t : Word) : (s.after h).tellClock t = (s.tellClock t).after h :=
  State.record_after h (.now t) { s with clockIn := s.clockIn.tail, drawn := s.drawn + 1 }

theorem State.now_after : (s.after h).now = s.now.map id (State.after h) :=
  congrArg (Prod.mk s.clockAnswer) (s.tellClock_after h s.clockAnswer)

theorem State.pollNow_after (start timeout : Word) (p : Nat) :
    (s.after h).pollNow start timeout p = (s.pollNow start timeout p).map id (State.after h) :=
  congrArg (Prod.mk (s.pollAnswer start timeout p)) (s.tellClock_after h _)

theorem State.pinRead_after : (s.after h).pinRead = s.pinRead.map id (State.after h) :=
  congrArg (Prod.mk s.levelAnswer)
    (State.record_after h (.pinRead s.params.dataPin s.levelAnswer)
      { s with levelIn := s.levelIn.tail, drawn := s.drawn + 1 })

theorem State.shiftInByte_after : (s.after h).shiftInByte = s.shiftInByte.map id (State.after h) :=
  congrArg (Prod.mk s.byteAnswer)
    (State.record_after h (.shiftInByte s.params.dataPin s.params.clockPin s.byteAnswer)
      { s with byteIn := s.byteIn.tail, drawn := s.drawn + 1 })

theorem State.writeClock_after (level : Level) :
    (s.after h).writeClock level = (s.writeClock level).after h :=
  State.record_after h _ s

theorem State.pulses_after (n : Nat) : (s.after h).pulses n = (s.pulses n).after h := by
  induction n generalizing s with
  | zero => rfl
  | succ n ih => simp only [State.pulses, State.pulse, State.writeClock_after, ih]

theorem State.takeReading_after : (s.after h).takeReading = s.takeReading.map id (State.after h) := by
  simp only [State.takeReading, State.shiftInByte_after, Prod.map, id, State.pulses_after]
  rfl

theorem State.poll_after (start timeout : Word) (p : Nat) :
    (s.after h).poll start timeout p = (s.poll start timeout p).map id (State.after h) := by
  simp only [State.poll, State.pollNow_after, Prod.map, id, State.pinRead_after]
  split
  · rfl
  · rcases (s.pollNow start timeout p).2.pinRead with ⟨_ | _, u⟩
    · rfl
    · exact congrArg (Prod.mk Poll.yielded) (State.record_after h .yield u)

/-! ### Commands -/

theorem State.readFrom_after (start timeout : Word) (p : Nat) :
    (s.after h).readFrom start timeout p = (s.readFrom start timeout p).after h := by
  simp only [State.readFrom, State.poll_after]
  rcases s.poll start timeout p with ⟨_ | _ | _, u⟩
  · rfl
  · simp only [Prod.map, id, State.takeReading_after]
    rfl
  · rfl

theorem State.clearStep_after : (s.after h).clearStep = State.after h <$> s.clearStep := by
  by_cases hcap : s.capacity ≤ s.ord.length
  · exact (State.clearStep_ok (s := s.after h).mpr ⟨hcap, rfl⟩).trans
      (congrArg (State.after h <$> ·) (State.clearStep_ok.mpr ⟨hcap, rfl⟩).symm)
  · simp only [State.clearStep, State.ordIdentity, State.markUnsorted, State.after, hcap, if_false]
    rfl

theorem State.reconfigure_after (req : Word) :
    (s.after h).reconfigure req = State.after h <$> s.reconfigure req :=
  State.clearStep_after h { s with capacity := clamp s.params req }

theorem State.addStep_after (v : Word) : (s.after h).addStep v = State.after h <$> s.addStep v := by
  have hentry : writeEntry .buf (s.after h).buf (s.after h).capacity (s.after h).writeIndex v =
    writeEntry .buf s.buf s.capacity s.writeIndex v := rfl
  simp only [State.addStep, State.bufWrite, hentry]
  cases writeEntry .buf s.buf s.capacity s.writeIndex v <;> rfl

theorem State.finishMedian_after : (s.after h).finishMedian = State.after h <$> s.finishMedian := by
  have hstep : (s.after h).medianStep = _ := State.medianStep_withFilter s (s.after h)
  simp only [State.finishMedian, hstep]
  cases hm : s.medianStep with
  | error f => rfl
  | ok r =>
    obtain ⟨m, u⟩ := r
    obtain ⟨-, rfl, rfl⟩ | ⟨-, ⟨v, rfl⟩, hu⟩ := State.medianStep_frame hm
    · rfl
    · rw [hu]
      rfl

/-- One iteration of READ_MEDIAN's wait, if the readings that follow it do the same. -/
theorem State.medianFrom_after_of {left : Nat}
    (hleft : ∀ u : State, (u.after h).takeReadings left = State.after h <$> u.takeReadings left)
    (start : Word) (p : Nat) :
    (s.after h).medianFrom left start p = State.after h <$> s.medianFrom left start p := by
  rw [State.medianFrom_eq, State.medianFrom_eq, State.poll_after]
  rcases s.poll start Config.readMedianTimeout p with ⟨_ | _ | _, u⟩
  · rfl
  · simp only [Prod.map, id, State.takeReading_after, State.addStep_after]
    cases u.takeReading.2.addStep u.takeReading.1 with
    | error f => rfl
    | ok v =>
      have hv := hleft v
      cases left <;> exact hv
  · rfl

theorem State.takeReadings_after (n : Nat) :
    (s.after h).takeReadings n = State.after h <$> s.takeReadings n := by
  induction n generalizing s with
  | zero => exact s.finishMedian_after h
  | succ n ih =>
    rw [State.takeReadings, State.now_after]
    exact State.medianFrom_after_of h s.now.2 ih s.now.1 s.now.2.freshPatience

theorem State.medianFrom_after (left : Nat) (start : Word) (p : Nat) :
    (s.after h).medianFrom left start p = State.after h <$> s.medianFrom left start p :=
  State.medianFrom_after_of h s (fun u => u.takeReadings_after h left) start p

/-- What a meaning answers, with the events `h` before the history of a next state. -/
def afterAnswer : Answer → Answer
  | .next t => .next (t.after h)
  | .fault f => .fault f
  | .refused r => .refused r

theorem answer_after (x : Except Fault State) : answer (State.after h <$> x) = afterAnswer h (answer x) := by
  cases x <;> rfl

/-- A filter step and the end of its command. -/
theorem answer_bind_after (x : Except Fault State) {f : State → State}
    (hf : ∀ u, f (u.after h) = (f u).after h := by exact fun _ => rfl) :
    answer (State.after h <$> x >>= fun u => .ok (f u)) =
      afterAnswer h (answer (x >>= fun u => .ok (f u))) := by
  cases x with
  | error f => rfl
  | ok u => exact congrArg Host.Outcome.next (hf u)

theorem execReadMedian_after (times : Word) :
    execReadMedian times (s.after h) = afterAnswer h (execReadMedian times s) := by
  unfold execReadMedian
  split
  · rfl
  · rw [State.reconfigure_after, ← answer_after]
    cases s.reconfigure times with
    | error f => rfl
    | ok u =>
      show answer ((u.after h).takeReadings ((s32 times).toNat - 1 + 1)) = _
      rw [State.takeReadings_after]
      rfl

theorem exec_after (i : Instr) : exec i (s.after h) = afterAnswer h (exec i s) := by
  cases i with
  | begin =>
    simp only [exec, execBegin, State.setPinMode, State.record_after]
    rfl
  | setGain code => rfl
  | isReady =>
    simp only [exec, execIsReady, State.pinRead_after]
    rfl
  | read timeout =>
    simp only [exec, execRead, State.now_after]
    exact congrArg Host.Outcome.next (State.readFrom_after h s.now.2 ..)
  | powerDown =>
    simp only [exec, execPowerDown, State.writeClock_after]
    rfl
  | powerUp =>
    simp only [exec, execPowerUp, State.writeClock_after]
    rfl
  | filterConfigure req =>
    simp only [exec, execFilterConfigure, State.reconfigure_after]
    exact answer_bind_after h _
  | filterClear =>
    simp only [exec, execFilterClear, State.clearStep_after]
    exact answer_bind_after h _
  | filterAdd value =>
    simp only [exec, execFilterAdd, State.addStep_after]
    exact answer_bind_after h _
  | filterGetMedian =>
    simp only [exec, execFilterGetMedian, State.finishMedian_after, answer_after]
  | readMedian times => exact execReadMedian_after h s times

theorem resume_after (wait : Wait) : resume wait (s.after h) = afterAnswer h (resume wait s) := by
  obtain ⟨start, task, p⟩ := wait
  cases task with
  | read timeout => exact congrArg Host.Outcome.next (State.readFrom_after h s.unwaited start timeout p)
  | median left =>
    exact (congrArg answer (State.medianFrom_after h s.unwaited left start p)).trans (answer_after h _)

/-! ### Steps -/

theorem State.settle_after (w : CommandWord) : (s.after h).settle w = (s.settle w).after h := by
  cases hw : s.wait with
  | none =>
    rw [State.settle_of_wait_none w hw, State.settle_of_wait_none (s := s.after h) w hw]
    exact State.record_after h (.command w s.status s.result) { s with cp := s.cp + 1 }
  | some wait => rw [State.settle_of_wait_some w hw, State.settle_of_wait_some (s := s.after h) w hw]

theorem settleAnswer_after (w : CommandWord) (x : Answer) :
    settleAnswer w (afterAnswer h x) = afterAnswer h (settleAnswer w x) := by
  cases x with
  | next u => exact congrArg Host.Outcome.next (u.settle_after h w)
  | fault f => rfl
  | refused r => rfl

/-- A step does the same with more events before the history. -/
theorem step_after : step (s.after h) = afterAnswer h (step s) := by
  obtain ⟨hp, hs⟩ | ⟨hp, hf, hs⟩ | ⟨hp, w, wait, hf, hw, hs⟩ | ⟨hp, w, e, hf, hw, hd, hs⟩ |
    ⟨hp, w, i, hf, hw, hd, hs⟩ := step_cases s <;> rw [hs]
  · exact step_of_illFormed (s := s.after h) hp
  · exact step_of_fetch_none (s := s.after h) hp hf
  · rw [step_of_wait (s := s.after h) hp hw hf, resume_after, settleAnswer_after]
  · rw [step_of_illegal (s := s.after h) hp hw hf hd]
    exact settleAnswer_after h w (illegalCommand s)
  · rw [step_of_command (s := s.after h) hp hw hf hd, exec_after, settleAnswer_after]

end

/-- A step adds the same events to any history (70_reset_and_hazards R236): those it adds to the empty one. -/
theorem step_of_history {s t : State} (hstep : step s = .next t) :
    ∃ es, t.history = s.history ++ es ∧
      ∀ h, step { s with history := h } = .next { t with history := h ++ es } := by
  have hblank : ∀ h, step { s with history := h } = afterAnswer h (step { s with history := [] }) := by
    intro h
    rw [← step_after, State.after, List.append_nil]
  have hs := (hblank s.history).symm.trans hstep
  cases hu : step { s with history := [] } with
  | next u =>
    rw [hu] at hblank hs
    cases hs
    exact ⟨u.history, rfl, hblank⟩
  | fault f =>
    rw [hu] at hs
    cases hs
  | refused r =>
    rw [hu] at hs
    cases hs

end Sys2Proof.Machine

/-!
Commands before BEGIN (70_reset_and_hazards R234, R236): each makes a host call that leaves a claim about the
chip without ground. The statement CommandsBeforeBegin.
-/

namespace Sys2Proof.Machine

/-! ### Host calls that need BEGIN -/

/-- A host call other than `PinMode` (70_reset_and_hazards R236). -/
def Event.needsBegin : Event → Bool
  | .pinMode _ _ => false
  | .command _ _ _ => false
  | .now _ => true
  | .pinRead _ _ => true
  | .pinWrite _ _ => true
  | .shiftInByte _ _ _ => true
  | .yield => true

theorem ChipView.next_of_needsBegin {clock : PinId} {v : ChipView} {e : Event} (hv : v.begun = false)
    (he : e.needsBegin = true) : v.next clock e = v.lost :=
  ChipView.next_lost hv (fun _ _ h => by cases h; cases he) fun _ _ _ h => by cases h; cases he

/-- One such call loses the chip, and no more than that is lost by further ones. -/
theorem ChipView.foldl_of_needsBegin {clock : PinId} {v : ChipView} (hv : v.begun = false) {es : List Event}
    (hes : es.all Event.needsBegin = true) (hne : es ≠ []) : es.foldl (ChipView.next clock) v = v.lost := by
  induction es generalizing v with
  | nil => exact absurd rfl hne
  | cons e es ih =>
    obtain ⟨he, hrest⟩ := Bool.and_eq_true_iff.mp hes
    rw [List.foldl_cons, ChipView.next_of_needsBegin hv he]
    cases es with
    | nil => rfl
    | cons e' es => exact ih (v := v.lost) hv hrest (List.cons_ne_nil e' es)

/-- From `s` to `t` the engine made host calls, at least one, and none of them `PinMode`. -/
structure State.NeedsBegin (s t : State) : Prop where
  params : t.params = s.params
  history : ∃ es, t.history = s.history ++ es ∧ es.all Event.needsBegin = true ∧ es ≠ []

theorem State.NeedsBegin.trans {s t u : State} (h : s.NeedsBegin t) (h' : t.NeedsBegin u) :
    s.NeedsBegin u := by
  obtain ⟨hp, es, he, hes, hne⟩ := h
  obtain ⟨hp', fs, hf, hfs, -⟩ := h'
  exact ⟨hp'.trans hp, es ++ fs, by rw [hf, he, List.append_assoc], by rw [List.all_append, hes, hfs]; rfl,
    List.append_ne_nil_of_left_ne_nil hne fs⟩

theorem State.NeedsBegin.congr {s t u : State} (h : s.NeedsBegin t) (hparams : u.params = t.params := by rfl)
    (hhistory : u.history = t.history := by rfl) : s.NeedsBegin u :=
  ⟨hparams.trans h.params, hhistory ▸ h.history⟩

theorem State.NeedsBegin.congr_left {s s' t : State} (h : s'.NeedsBegin t)
    (hparams : s'.params = s.params := by rfl) (hhistory : s'.history = s.history := by rfl) :
    s.NeedsBegin t :=
  ⟨h.params.trans hparams, hhistory ▸ h.history⟩

/-- Before BEGIN such calls leave a claim about the chip without ground (70_reset_and_hazards R236). -/
theorem State.NeedsBegin.chip {s t : State} (h : s.NeedsBegin t) (hb : s.chip.begun = false) :
    t.chip = s.chip.lost := by
  obtain ⟨hp, es, he, hes, hne⟩ := h
  rw [State.chip_of_history he hp, ChipView.foldl_of_needsBegin hb hes hne]

theorem State.needsBegin_now (s : State) : s.NeedsBegin s.now.2 :=
  ⟨rfl, [.now s.clockAnswer], rfl, rfl, List.cons_ne_nil _ _⟩

theorem State.needsBegin_pinRead (s : State) : s.NeedsBegin s.pinRead.2 :=
  ⟨rfl, [.pinRead s.params.dataPin s.levelAnswer], rfl, rfl, List.cons_ne_nil _ _⟩

theorem State.needsBegin_writeClock (level : Level) (s : State) : s.NeedsBegin (s.writeClock level) :=
  ⟨rfl, [.pinWrite s.params.clockPin level], rfl, rfl, List.cons_ne_nil _ _⟩

/-- An iteration of a wait reads the clock, whatever its end. -/
theorem State.needsBegin_poll (start timeout : Word) (p : Nat) (s : State) :
    s.NeedsBegin (s.poll start timeout p).2 := by
  rcases Nat.lt_or_ge (s.pollAnswer start timeout p - start).toNat timeout.toNat with hclock | hlate
  · rw [State.poll_sample hclock]
    refine ⟨rfl, _, List.append_assoc .., ?_, List.cons_ne_nil _ _⟩
    cases s.levelAt 0 1 <;> rfl
  · rw [State.poll_deadline hlate]
    exact ⟨rfl, [.now (s.pollAnswer start timeout p)], rfl, rfl, List.cons_ne_nil _ _⟩

theorem needsBegin_pulseEvents (clock : PinId) (n : Nat) :
    (pulseEvents clock n).all Event.needsBegin = true := by
  induction n with
  | zero => rfl
  | succ n ih => rw [pulseEvents_succ, List.all_append, ih]; rfl

theorem State.needsBegin_takeReading (s : State) : s.NeedsBegin s.takeReading.2 := by
  rw [State.takeReading_eq]
  refine ⟨rfl, _, List.append_assoc .., ?_, List.cons_ne_nil _ _⟩
  rw [List.all_append, needsBegin_pulseEvents]
  rfl

/-! ### Commands that need BEGIN -/

theorem State.needsBegin_readFrom (start timeout : Word) (p : Nat) (s : State) :
    s.NeedsBegin (s.readFrom start timeout p) := by
  have hpoll := s.needsBegin_poll start timeout p
  obtain hr | hr | hr := s.readFrom_parts start timeout p <;> rw [hr]
  · exact hpoll.congr
  · exact hpoll.congr
  · exact (hpoll.trans (State.needsBegin_takeReading _)).congr

theorem State.needsBegin_medianFrom {left : Nat} {start : Word} {p : Nat} {s t : State}
    (h : s.medianFrom left start p = .ok t) : s.NeedsBegin t := by
  have hpoll := s.needsBegin_poll start Config.readMedianTimeout p
  obtain rfl | rfl | ⟨u, hadd, hrest⟩ := State.medianFrom_cases h
  · exact hpoll.congr
  · exact hpoll.congr
  have hreading := hpoll.trans (State.needsBegin_takeReading _)
  obtain ⟨-, rfl⟩ := State.addStep_ok.mp hadd
  cases left with
  | zero =>
    rw [State.finishMedian_frame hrest]
    exact hreading.congr
  | succ n => exact hreading.congr.trans ((State.needsBegin_now _).trans (State.needsBegin_medianFrom hrest))
termination_by left

/-- READ_MEDIAN of a positive count, from its start or from a wait. -/
theorem needsBegin_readMedian {times : Word} (hpos : 0 < times.toInt) {s u : State}
    (h : runsTo (.readMedian times) s u) : s.NeedsBegin u := by
  obtain ⟨-, h⟩ | ⟨⟨start, task, p⟩, -, hi, h⟩ := h
  · have hn : ¬s32 times ≤ 0 := Int.not_le.mpr hpos
    replace h : execReadMedian times s = .next u := h
    rw [execReadMedian, if_neg hn] at h
    obtain ⟨v, hv, hm⟩ := bind_eq_ok (answer_eq_next.mp h)
    obtain ⟨-, rfl⟩ := State.reconfigure_ok.mp hv
    exact ((State.needsBegin_now _).trans (State.needsBegin_medianFrom hm)).congr_left
  · cases task with
    | read timeout => cases hi
    | median left => exact (State.needsBegin_medianFrom (s := s.unwaited) (answer_eq_next.mp h)).congr_left

/-- A command that needs BEGIN makes a host call that does (70_reset_and_hazards R234). -/
theorem needsBegin_of_runsTo {i : Instr} (hi : needsBegin i = true) {s u : State} (h : runsTo i s u) :
    s.NeedsBegin u := by
  cases i with
  | begin | setGain | filterConfigure | filterClear | filterAdd | filterGetMedian => cases hi
  | isReady =>
    cases exec_of_runsTo h nofun nofun
    exact s.needsBegin_pinRead.congr
  | read timeout =>
    obtain ⟨start, p, ⟨rfl, -⟩ | rfl⟩ := readFrom_of_runsTo h
    · exact s.needsBegin_now.trans (State.needsBegin_readFrom ..)
    · exact (s.unwaited.needsBegin_readFrom start timeout p).congr_left
  | powerDown =>
    cases exec_of_runsTo h nofun nofun
    exact ((s.needsBegin_writeClock .low).trans (State.needsBegin_writeClock .high _)).congr
  | powerUp =>
    cases exec_of_runsTo h nofun nofun
    exact (s.needsBegin_writeClock .low).congr
  | readMedian times => exact needsBegin_readMedian (of_decide_eq_true hi) h

/-- A completion is no ground for a claim either. -/
theorem State.settle_chip_of_lost {v : ChipView} {s : State} (w : CommandWord) (h : s.chip = v.lost) :
    (s.settle w).chip = v.lost := by
  unfold State.settle
  split
  · rw [State.chip_of_history (State.complete_history ..), h]
    rfl
  · exact h

/-- Settles O59: no part of a step reads the history, and every command that needs BEGIN makes a call that loses
the chip before it. -/
theorem commandsBeforeBegin : Obligations.CommandsBeforeBegin := by
  refine ⟨fun s t => step_of_history, fun s t w i hm hf hd hi h hb => ?_⟩
  have hparams := (whoWritesWhat s t w hm hf h).1
  obtain ⟨hn, -⟩ | ⟨w', u, hf', rfl, ⟨-, e, he, -⟩ | ⟨i', hd', hr⟩⟩ := step_runs hm h
  · cases hf.symm.trans hn
  · cases hf.symm.trans hf'
    cases hd.symm.trans he
  cases hf.symm.trans hf'
  cases hd.symm.trans hd'
  have hchip : (u.settle w).chip = s.chip.lost :=
    State.settle_chip_of_lost w ((needsBegin_of_runsTo hi hr).chip hb)
  rw [State.chip, hparams] at hchip
  rw [nextSetting, hchip]
  exact ⟨rfl, rfl⟩

end Sys2Proof.Machine
